-- ==== Sys2Proof/Word.lean ====
section
/-! DEFINITION. The word types of KONNEK-CORE (00_scope.md rules R12, R15, R16): every value the spec treats as
bits is a bit vector of the spec's width, bit 0 the least significant. -/

namespace Sys2Proof

/-- An operand register's value, W bits, unsigned (R31). W is configuration (R14); R12 fixes 2048. -/
abbrev Word (w : Nat := 2048) := BitVec w

/-- One byte. -/
abbrev Byte := BitVec 8

/-- A 32-bit bus word; a command word is one (R86, R120). -/
abbrev CmdWord := BitVec 32

/-- A host byte address, ABITS = 16 bits (R80). -/
abbrev HostAddr := BitVec 16

/-- A command-memory index as CPC and ERRPC hold it, 16 bits (R38, R39), for every NCMD. DESIGN CHOICE where NCMD is
above 65535 (assumption log 23). -/
abbrev CmdIndex := BitVec 16

/-- The number of an operand register, one of NREG (R16). NREG is configuration (R14); R12 fixes 16, which is what a
command's 4-bit register field can name (R121). -/
abbrev Reg (nreg : Nat := 16) := Fin nreg

/-- A register field of a command word (R120). -/
abbrev RegField := BitVec 4

/-- A MeongCipher block, key or subkey: 16 bytes, byte 0 first (R261). -/
abbrev Block := Vector Byte 16

/-- One half of a MeongCipher block: 8 bytes (R268). -/
abbrev Half := Vector Byte 8

end Sys2Proof
end

