-- ==== Sys2Proof/Syntax.lean ====
section
/-! DEFINITION. The commands of KCC 1.0 (30_encoding.md rules R120 to R127): one constructor per row of the opcode
map, with the fields the row uses. A point operand is the even number of a register pair (R121); that it is even is
checked in WellFormed. The pseudo-instructions of rule R134 are a type of their own. -/

namespace Sys2Proof

/-- One KCC command with its operands (R127). -/
inductive Instr where
  /-- `nop` (R158). -/
  | nop
  /-- `halt` (R159). -/
  | halt
  /-- `mov rd, ra` (R160). -/
  | mov (rd ra : Reg)
  /-- `ldi rd, imm16` (R161). -/
  | ldi (rd : Reg) (imm : BitVec 16)
  /-- `modmul rd, ra, rb, rm` (R182). -/
  | modmul (rd ra rb rm : Reg)
  /-- `modexp rd, ra, rb, rm` (R183). -/
  | modexp (rd ra rb rm : Reg)
  /-- `modinv rd, ra, rm` (R185). -/
  | modinv (rd ra rm : Reg)
  /-- `modsqrt rd, ra, rm` (R187). -/
  | modsqrt (rd ra rm : Reg)
  /-- `csel id` (R216). -/
  | csel (imm : BitVec 16)
  /-- `cld ra, rb, rm` (R217). -/
  | cld (ra rb rm : Reg)
  /-- `cget rd, sel` (R218). -/
  | cget (rd : Reg) (sel : BitVec 3)
  /-- `ecadd pd, pa, pb` (R221). -/
  | ecadd (pd pa pb : Reg)
  /-- `ecdbl pd, pa` (R222). -/
  | ecdbl (pd pa : Reg)
  /-- `ecneg pd, pa` (R223). -/
  | ecneg (pd pa : Reg)
  /-- `ecmul[.neg] pd, pa, rb` (R226). -/
  | ecmul (pd pa rb : Reg) (neg : Bool)
  /-- `ecmulg[.neg] pd, rb` (R227). -/
  | ecmulg (pd rb : Reg) (neg : Bool)
  /-- `mkey ra, rb` (R270). -/
  | mkey (ra rb : Reg)
  /-- `menc rd, ra` (R271). -/
  | menc (rd ra : Reg)
  /-- `mdec rd, ra` (R272). -/
  | mdec (rd ra : Reg)
deriving DecidableEq, Repr

/-- The assembler's pseudo-instructions (R134); no other exists. -/
inductive Pseudo where
  /-- `clr rd`. -/
  | clr (rd : Reg)
  /-- `ecsub pd, pa, pb, pt`, with the scratch pair pt. -/
  | ecsub (pd pa pb pt : Reg)
  /-- `ecinv pd, pa`. -/
  | ecinv (pd pa : Reg)
deriving DecidableEq, Repr

end Sys2Proof
end

