-- ==== Sys2Proof/WellFormed.lean ====
section
/-! DEFINITION. Which commands have an encoding: the value constraints of 30_encoding.md rule R127's last column
(R129). Every other field of `Instr` may hold any value. -/

namespace Sys2Proof

/-- A register number that may name a point pair: an even one (R121). -/
def evenReg {nreg : Nat} (r : Reg nreg) : Bool := r.val % 2 == 0

/-- The curve ids CSEL may carry: 1 and 2 (R125, R129). -/
def curveIdOk (imm : BitVec 16) : Bool := imm == 1 || imm == 2

/-- The selectors CGET may carry: 0 to 5 (R125, R129). -/
def selectorOk (sel : BitVec 3) : Bool := sel.toNat ≤ 5

/-- The command meets the extra constraint of its row of R127. -/
def Instr.wf : Instr → Bool
  | .nop => true
  | .halt => true
  | .mov _ _ => true
  | .ldi _ _ => true
  | .modmul _ _ _ _ => true
  | .modexp _ _ _ _ => true
  | .modinv _ _ _ => true
  | .modsqrt _ _ _ => true
  | .csel imm => curveIdOk imm
  | .cld _ _ _ => true
  | .cget _ sel => selectorOk sel
  | .ecadd pd pa pb => evenReg pd && evenReg pa && evenReg pb
  | .ecdbl pd pa => evenReg pd && evenReg pa
  | .ecneg pd pa => evenReg pd && evenReg pa
  | .ecmul pd pa _ _ => evenReg pd && evenReg pa
  | .ecmulg pd _ _ => evenReg pd
  | .mkey _ _ => true
  | .menc _ _ => true
  | .mdec _ _ => true

/-- The operand rule of each pseudo-instruction (R134): point fields are even, and ecsub's scratch pair differs from
pa unless pa = pb. -/
def Pseudo.wf : Pseudo → Bool
  | .clr _ => true
  | .ecsub pd pa pb pt => evenReg pd && evenReg pa && evenReg pb && evenReg pt && (pt != pa || pa == pb)
  | .ecinv pd pa => evenReg pd && evenReg pa

end Sys2Proof
end

