-- ==== Sys2Proof/Decode.lean ====
section
/-! DEFINITION. The decoder and encoder of KCC (30_encoding.md rules R120 to R131). Decoding is total on every
32-bit word, by the opcode map of rule R127 and the procedure of rule R128; an ILLEGAL word is rejected by the name
of the R129 case it falls under. The encoder writes the words of the same map. -/

namespace Sys2Proof

/-- Why a word is ILLEGAL (R129), in the order R128 tests it. -/
inductive Illegal where
  /-- The OP value is not assigned in R127. -/
  | unassignedOp
  /-- A must-be-zero field is not zero. -/
  | nonZeroMbz
  /-- A point field holds an odd register number. -/
  | oddPoint
  /-- CSEL with IMM16 other than 1 and 2. -/
  | badCurveId
  /-- CGET with selector 6 or 7. -/
  | badSelector
  /-- Fewer than four bytes: no command word at all. The machine fetches whole words (R86), so only the byte decoder
  answers this. -/
  | shortWord
deriving DecidableEq, Repr

/-! Field positions (R120). -/

/-- OP, bits 31:26. -/
def opField (w : CmdWord) : BitVec 6 := w.extractLsb' 26 6
/-- RD, bits 25:22. -/
def rdField (w : CmdWord) : RegField := w.extractLsb' 22 4
/-- RA, bits 21:18. -/
def raField (w : CmdWord) : RegField := w.extractLsb' 18 4
/-- RB, bits 17:14. -/
def rbField (w : CmdWord) : RegField := w.extractLsb' 14 4
/-- RM, bits 13:10. -/
def rmField (w : CmdWord) : RegField := w.extractLsb' 10 4
/-- FN, bits 9:0. -/
def fnField (w : CmdWord) : BitVec 10 := w.extractLsb' 0 10
/-- IMM16, bits 15:0. -/
def immField (w : CmdWord) : BitVec 16 := w.extractLsb' 0 16
/-- CGET's selector, FN[2:0] (R125). -/
def selField (w : CmdWord) : BitVec 3 := w.extractLsb' 0 3
/-- The NEG modifier, FN[0] (R125). -/
def negField (w : CmdWord) : Bool := w.getLsbD 0

/-- The register a field names (R121). -/
def regOfField (f : RegField) : Reg := f.toFin

/-- The field that names a register (R121). -/
def fieldOfReg (r : Reg) : RegField := BitVec.ofFin r

/-- The register RD names. -/
def rdReg (w : CmdWord) : Reg := regOfField (rdField w)
/-- The register RA names. -/
def raReg (w : CmdWord) : Reg := regOfField (raField w)
/-- The register RB names. -/
def rbReg (w : CmdWord) : Reg := regOfField (rbField w)
/-- The register RM names. -/
def rmReg (w : CmdWord) : Reg := regOfField (rmField w)

/-- CSEL's last check (R128). -/
def buildCsel (w : CmdWord) : Except Illegal Instr :=
  if curveIdOk (immField w) then .ok (.csel (immField w)) else .error .badCurveId

/-- CGET's last check (R128). -/
def buildCget (w : CmdWord) : Except Illegal Instr :=
  if selectorOk (selField w) then .ok (.cget (rdReg w) (selField w)) else .error .badSelector

/-- One row of the opcode map (R127): its OP, its fixed bits, which register fields name points, and the command its
fields make. -/
structure OpRow where
  op : BitVec 6
  mask : CmdWord
  pattern : CmdWord
  rdPoint : Bool := false
  raPoint : Bool := false
  rbPoint : Bool := false
  build : CmdWord → Except Illegal Instr

/-- The opcode map (R127), its rows in the spec's order. -/
def opRows : List OpRow :=
  [ { op := 0x01, pattern := 0x04000000, mask := 0xFFFFFFFF, build := fun _ => .ok .nop },
    { op := 0x02, pattern := 0x08000000, mask := 0xFFFFFFFF, build := fun _ => .ok .halt },
    { op := 0x03, pattern := 0x0C000000, mask := 0xFC03FFFF, build := fun w => .ok (.mov (rdReg w) (raReg w)) },
    { op := 0x04, pattern := 0x10000000, mask := 0xFC3F0000, build := fun w => .ok (.ldi (rdReg w) (immField w)) },
    { op := 0x08, pattern := 0x20000000, mask := 0xFC0003FF,
      build := fun w => .ok (.modmul (rdReg w) (raReg w) (rbReg w) (rmReg w)) },
    { op := 0x09, pattern := 0x24000000, mask := 0xFC0003FF,
      build := fun w => .ok (.modexp (rdReg w) (raReg w) (rbReg w) (rmReg w)) },
    { op := 0x0A, pattern := 0x28000000, mask := 0xFC03C3FF,
      build := fun w => .ok (.modinv (rdReg w) (raReg w) (rmReg w)) },
    { op := 0x0B, pattern := 0x2C000000, mask := 0xFC03C3FF,
      build := fun w => .ok (.modsqrt (rdReg w) (raReg w) (rmReg w)) },
    { op := 0x10, pattern := 0x40000000, mask := 0xFFFF0000, build := buildCsel },
    { op := 0x11, pattern := 0x44000000, mask := 0xFFC003FF,
      build := fun w => .ok (.cld (raReg w) (rbReg w) (rmReg w)) },
    { op := 0x12, pattern := 0x48000000, mask := 0xFC3FFFF8, build := buildCget },
    { op := 0x13, pattern := 0x4C000000, mask := 0xFC003FFF, rdPoint := true, raPoint := true, rbPoint := true,
      build := fun w => .ok (.ecadd (rdReg w) (raReg w) (rbReg w)) },
    { op := 0x14, pattern := 0x50000000, mask := 0xFC03FFFF, rdPoint := true, raPoint := true,
      build := fun w => .ok (.ecdbl (rdReg w) (raReg w)) },
    { op := 0x15, pattern := 0x54000000, mask := 0xFC03FFFF, rdPoint := true, raPoint := true,
      build := fun w => .ok (.ecneg (rdReg w) (raReg w)) },
    { op := 0x16, pattern := 0x58000000, mask := 0xFC003FFE, rdPoint := true, raPoint := true,
      build := fun w => .ok (.ecmul (rdReg w) (raReg w) (rbReg w) (negField w)) },
    { op := 0x17, pattern := 0x5C000000, mask := 0xFC3C3FFE, rdPoint := true,
      build := fun w => .ok (.ecmulg (rdReg w) (rbReg w) (negField w)) },
    { op := 0x20, pattern := 0x80000000, mask := 0xFFC03FFF, build := fun w => .ok (.mkey (raReg w) (rbReg w)) },
    { op := 0x21, pattern := 0x84000000, mask := 0xFC03FFFF, build := fun w => .ok (.menc (rdReg w) (raReg w)) },
    { op := 0x22, pattern := 0x88000000, mask := 0xFC03FFFF, build := fun w => .ok (.mdec (rdReg w) (raReg w)) } ]

/-- A point field of the row holds an odd register number (R128). -/
def oddPointField (row : OpRow) (w : CmdWord) : Bool :=
  (row.rdPoint && !evenReg (rdReg w)) || (row.raPoint && !evenReg (raReg w)) ||
    (row.rbPoint && !evenReg (rbReg w))

/-- `decode` of R128. -/
def decode (w : CmdWord) : Except Illegal Instr :=
  match opRows.find? (fun row => row.op == opField w) with
  | none => .error .unassignedOp
  | some row =>
    if w &&& row.mask ≠ row.pattern then .error .nonZeroMbz
    else if oddPointField row w then .error .oddPoint
    else row.build w

/-- The 32-bit word of four bytes, the first at the lowest address: little-endian (R85, R86). -/
def wordOfBytes (b0 b1 b2 b3 : Byte) : CmdWord := b3 ++ b2 ++ b1 ++ b0

/-- Byte `j` of a 32-bit word: bits 8·j+7 to 8·j (R85). -/
def byteOfWord (w : CmdWord) (j : Nat) : Byte := w.extractLsb' (8 * j) 8

/-- Decode the first command of a byte string and give back the rest: every command is one word long (R131). -/
def decodeBytes : List Byte → Except Illegal (Instr × List Byte)
  | b0 :: b1 :: b2 :: b3 :: rest => (decode (wordOfBytes b0 b1 b2 b3)).map (fun i => (i, rest))
  | _ => .error .shortWord

/-- The instruction this decoder reads from a word of `nbits` bits, laid out as the hardware stores it. -/
def decodeTableWord (nbits w : Nat) : Option Instr :=
  let v : CmdWord := BitVec.ofNat 32 (w % 2 ^ nbits)
  match decodeBytes [byteOfWord v 0, byteOfWord v 1, byteOfWord v 2, byteOfWord v 3] with
  | .ok (i, _) => some i
  | .error _ => none

/-! The encoder, from the same map. -/

/-- A format N or R word from its fields (R120, R122, R123). -/
def packR (op : BitVec 6) (rd ra rb rm : RegField) (fn : BitVec 10) : CmdWord := op ++ rd ++ ra ++ rb ++ rm ++ fn

/-- A format I word from its fields (R124). -/
def packI (op : BitVec 6) (rd : RegField) (imm : BitVec 16) : CmdWord := op ++ rd ++ 0#6 ++ imm

/-- FN of a command with the NEG modifier (R125). -/
def negFn (neg : Bool) : BitVec 10 := if neg then 1 else 0

/-- The word of a command (R127). -/
def encode : Instr → CmdWord
  | .nop => packR 0x01 0 0 0 0 0
  | .halt => packR 0x02 0 0 0 0 0
  | .mov rd ra => packR 0x03 (fieldOfReg rd) (fieldOfReg ra) 0 0 0
  | .ldi rd imm => packI 0x04 (fieldOfReg rd) imm
  | .modmul rd ra rb rm => packR 0x08 (fieldOfReg rd) (fieldOfReg ra) (fieldOfReg rb) (fieldOfReg rm) 0
  | .modexp rd ra rb rm => packR 0x09 (fieldOfReg rd) (fieldOfReg ra) (fieldOfReg rb) (fieldOfReg rm) 0
  | .modinv rd ra rm => packR 0x0A (fieldOfReg rd) (fieldOfReg ra) 0 (fieldOfReg rm) 0
  | .modsqrt rd ra rm => packR 0x0B (fieldOfReg rd) (fieldOfReg ra) 0 (fieldOfReg rm) 0
  | .csel imm => packI 0x10 0 imm
  | .cld ra rb rm => packR 0x11 0 (fieldOfReg ra) (fieldOfReg rb) (fieldOfReg rm) 0
  | .cget rd sel => packR 0x12 (fieldOfReg rd) 0 0 0 (sel.setWidth 10)
  | .ecadd pd pa pb => packR 0x13 (fieldOfReg pd) (fieldOfReg pa) (fieldOfReg pb) 0 0
  | .ecdbl pd pa => packR 0x14 (fieldOfReg pd) (fieldOfReg pa) 0 0 0
  | .ecneg pd pa => packR 0x15 (fieldOfReg pd) (fieldOfReg pa) 0 0 0
  | .ecmul pd pa rb neg => packR 0x16 (fieldOfReg pd) (fieldOfReg pa) (fieldOfReg rb) 0 (negFn neg)
  | .ecmulg pd rb neg => packR 0x17 (fieldOfReg pd) 0 (fieldOfReg rb) 0 (negFn neg)
  | .mkey ra rb => packR 0x20 0 (fieldOfReg ra) (fieldOfReg rb) 0 0
  | .menc rd ra => packR 0x21 (fieldOfReg rd) (fieldOfReg ra) 0 0 0
  | .mdec rd ra => packR 0x22 (fieldOfReg rd) (fieldOfReg ra) 0 0 0

/-- The commands a pseudo-instruction stands for, and nothing else (R134). -/
def Pseudo.expand : Pseudo → List Instr
  | .clr rd => [.ldi rd 0]
  | .ecsub pd pa pb pt => [.ecneg pt pb, .ecadd pd pa pt]
  | .ecinv pd pa => [.ecneg pd pa]

end Sys2Proof
end

