-- ==== Sys2Proof/Config.lean ====
section
/-! DEFINITION. What is fixed for one KONNEK-CORE and is no state (10_state.md rule R30): the values W, NREG and NCMD
may take (00_scope.md rule R14), the constants of rule R12, the curve presets of 42_elliptic_curve.md rule R212, the
OPEN parameters of the MeongCipher unit (43_meongcipher.md rule R260), and the free values behind every value the spec
calls unspecified (93_implementation_defined.md). -/

namespace Sys2Proof

/-- The values of W, NREG and NCMD the rules are written for (R14). A machine of other values than R12's must restate
the address map (R82). -/
structure Config.Valid (w nreg ncmd : Nat) : Prop where
  w_ge : 520 ≤ w
  nreg_ge : 2 ≤ nreg
  nreg_even : nreg % 2 = 0
  ncmd_ge : 1 ≤ ncmd

/-- The host byte address of command word 0 (R81). -/
def Config.cmdBase : Nat := 0x1000

/-- The constant word the ID register reads (R33). -/
def Config.idWord : CmdWord := 0x4B430100

/-- The constant word the CONFIG register reads: NCMD, W / 64 and NREG (R34). DESIGN CHOICE (assumption log 23): R34
gives the fields and the values of R12 only. For a configuration R14 allows whose values do not fit the fields (W no
multiple of 64, W / 64 or NREG above 255, NCMD above 65535) the model takes the quotient rounded down and the low bits of
each value. -/
def Config.configWord (w nreg ncmd : Nat) : CmdWord :=
  BitVec.ofNat 16 ncmd ++ BitVec.ofNat 8 (w / 64) ++ BitVec.ofNat 8 nreg

/-- ONES, the W-bit all-ones value (R17), one coordinate of the infinity sentinel (R213). -/
def Config.ones {w : Nat} : Word w := BitVec.allOnes w

/-- One row of CURVE_PRESET: the constants of a named curve (R212). -/
structure CurvePreset where
  p : Nat
  a : Nat
  b : Nat
  n : Nat
  gx : Nat
  gy : Nat
deriving DecidableEq, Repr

/-- The constants of a curve fit the registers of a core of width `w`: each is a W-bit value, and the prime is below
ONES (R14, R213). -/
structure CurvePreset.Fits (c : CurvePreset) (w : Nat) : Prop where
  p_lt : c.p < 2 ^ w - 1
  a_lt : c.a < 2 ^ w
  b_lt : c.b < 2 ^ w
  n_lt : c.n < 2 ^ w
  gx_lt : c.gx < 2 ^ w
  gy_lt : c.gy < 2 ^ w

/-- CURVE_PRESET[1], SECP256R1 (R212). -/
def Config.secp256r1 : CurvePreset where
  p := 0xFFFFFFFF00000001000000000000000000000000FFFFFFFFFFFFFFFFFFFFFFFF
  a := 0xFFFFFFFF00000001000000000000000000000000FFFFFFFFFFFFFFFFFFFFFFFC
  b := 0x5AC635D8AA3A93E7B3EBBD55769886BC651D06B0CC53B0F63BCE3C3E27D2604B
  n := 0xFFFFFFFF00000000FFFFFFFFFFFFFFFFBCE6FAADA7179E84F3B9CAC2FC632551
  gx := 0x6B17D1F2E12C4247F8BCE6E563A440F277037D812DEB33A0F4A13945D898C296
  gy := 0x4FE342E2FE1A7F9B8EE7EB4A7C0F9E162BCE33576B315ECECBB6406837BF51F5

/-- CURVE_PRESET[2], BrainpoolP512r1 (R212). -/
def Config.brainpoolP512r1 : CurvePreset where
  p := 0xAADD9DB8DBE9C48B3FD4E6AE33C9FC07CB308DB3B3C9D20ED6639CCA703308717D4D9B009BC66842AECDA12AE6A380E62881FF2F2D82C68528AA6056583A48F3
  a := 0x7830A3318B603B89E2327145AC234CC594CBDD8D3DF91610A83441CAEA9863BC2DED5D5AA8253AA10A2EF1C98B9AC8B57F1117A72BF2C7B9E7C1AC4D77FC94CA
  b := 0x3DF91610A83441CAEA9863BC2DED5D5AA8253AA10A2EF1C98B9AC8B57F1117A72BF2C7B9E7C1AC4D77FC94CADC083E67984050B75EBAE5DD2809BD638016F723
  n := 0xAADD9DB8DBE9C48B3FD4E6AE33C9FC07CB308DB3B3C9D20ED6639CCA70330870553E5C414CA92619418661197FAC10471DB1D381085DDADDB58796829CA90069
  gx := 0x81AEE4BDD82ED9645A21322E9C4C6A9385ED9F70B5D916C1B43B62EEF4D0098EFF3B1F78E2D0D48D50D1687B93B97D5F7C6D5047406A5E688B352209BCB9F822
  gy := 0x7DDE385D566332ECC0EABFA9CF7822FDF209F70024A57B1AA000C55B881F8111B2DCDE494A5F485E5BCA4BD88A2763AED1CA2B2FA8F0540678CD1E0F3AD80892

/-- CURVE_PRESET: the two curves CSEL selects. It is a parameter of the model (R30; 93_implementation_defined.md I15),
and decision D42 lets a model replace the spec's values. -/
structure CurvePresets where
  /-- CURVE_PRESET[1]. -/
  secp256r1 : CurvePreset
  /-- CURVE_PRESET[2]. -/
  brainpoolP512r1 : CurvePreset
deriving DecidableEq, Repr

/-- The values R212 gives CURVE_PRESET. -/
def Config.curvePresets : CurvePresets where
  secp256r1 := Config.secp256r1
  brainpoolP512r1 := Config.brainpoolP512r1

/-- A configuration of the MeongCipher unit (R260). SBOX, PERM1, PERM2 and PERM3 are bijections BY TYPE, so a
configuration that breaks a required property of R260 cannot be built: this is the refusal of
93_implementation_defined.md I13. ISBOX and the inverse tables are the inverses of the same bijections (conflict C7).
A bit or byte table `t` gathers: output position `j` takes input position `t j` (R265, R266). -/
structure CipherTables where
  /-- SBOX, 256 bytes; its inverse is ISBOX (R260, R264). -/
  sbox : Equiv.Perm Byte
  /-- PERM1, the final bit permutation (R260, R265). -/
  perm1 : Equiv.Perm (Fin 128)
  /-- PERM2, the initial bit permutation (R260, R265). -/
  perm2 : Equiv.Perm (Fin 128)
  /-- PERM3, the byte permutation (R260, R266). -/
  perm3 : Equiv.Perm (Fin 16)
  /-- KS_MUL, the key-schedule multiplier matrix, row first (R260, R262). -/
  ksMul : Fin 16 → Fin 16 → Byte
  /-- KS_ADD, the key-schedule adder vector (R260, R262). -/
  ksAdd : Fin 16 → Byte
  /-- MEONG_MIX, a function of its two arguments only (R260, R267). -/
  mix : Half → Block → Half
deriving Inhabited

/-- The configuration of this core: OPEN in the spec (R12, R260, decisions D44, D45), so an uninterpreted constant.
Nothing can be proved of it but what holds of every `CipherTables`. Assumption log 3. -/
opaque Config.cipher : CipherTables

/-- What R30 takes as parameters beside W, NREG and NCMD, and which register a command's 4-bit field names (assumption
logs 17 and 24). -/
structure Configuration (nreg : Nat) where
  /-- CURVE_PRESET (R212; 93_implementation_defined.md I15). -/
  presets : CurvePresets
  /-- The MeongCipher tables and the mix function (R260; I13, I14). -/
  cipher : CipherTables
  /-- The register a field of a command names. -/
  regOf : Reg → Reg nreg

/-- The configuration of the core of R12: the presets of R212, the open cipher, and every field naming its own
number. -/
def Config.standard : Configuration 16 where
  presets := Config.curvePresets
  cipher := Config.cipher
  regOf := id

/-- A fresh operand-register-wide free value: what an operand register or a curve constant holds after a reset event
(R60, R342; 93_implementation_defined.md I1, I3), applied to the draw counter of State. Assumption log 2. -/
opaque Config.freeWord (w : Nat) : Nat → Word w

/-- A fresh 16-byte free value: what a subkey RK[r] holds after a reset event (R60, R342; I4). Assumption log 2. -/
opaque Config.freeBlock : Nat → Block

/-- A fresh 32-bit free value: what a host read returns where the spec leaves it unspecified (R92, R340; I2, I5, I11).
Assumption log 2. -/
opaque Config.freeBus : Nat → CmdWord

end Sys2Proof
end

