-- ==== Sys2Proof/Machine/State.lean ====
section
/-! DEFINITION. The state of KONNEK-CORE (10_state.md rules R30 to R49) as plain data, the two ways a step can stop,
and the state after reset (R60). Four fields at the end are the model's own: the agenda of turns that makes the two
agents of rule R22 one deterministic machine, the word the last host read returned, what the host has read of the
error report, and the counter behind the free values. -/

namespace Sys2Proof.Machine

/-- CURVE_ID (R45). -/
inductive CurveId where
  /-- 0: no curve context. -/
  | none
  /-- 1: the preset SECP256R1. -/
  | secp256r1
  /-- 2: the preset BrainpoolP512r1. -/
  | brainpoolP512r1
  /-- 3: a custom curve loaded by CLD. -/
  | custom
deriving DecidableEq, Repr

/-- The error codes of R300; codes 13 to 255 are never written, so they are no constructors. -/
inductive ErrorCode where
  /-- 0, E_NONE. -/
  | none
  /-- 1, E_ILLEGAL. -/
  | illegal
  /-- 2, E_BAD_MODULUS. -/
  | badModulus
  /-- 3, E_NOT_INVERTIBLE. -/
  | notInvertible
  /-- 4, E_SQRT_MODULUS. -/
  | sqrtModulus
  /-- 5, E_NO_CURVE. -/
  | noCurve
  /-- 6, E_NO_GENERATOR. -/
  | noGenerator
  /-- 7, E_BAD_POINT. -/
  | badPoint
  /-- 8, E_BAD_CURVE. -/
  | badCurve
  /-- 9, E_KEY_LENGTH. -/
  | keyLength
  /-- 10, E_NO_KEY. -/
  | noKey
  /-- 11, E_PC_RANGE. -/
  | pcRange
  /-- 12, E_ABORTED. -/
  | aborted
deriving DecidableEq, Repr

/-- The curve context (R45). STATUS.GENV is derived from `id` (R46). -/
structure CurveContext (w : Nat) where
  id : CurveId
  ca : Word w
  cb : Word w
  cp : Word w
  cn : Word w
  cgx : Word w
  cgy : Word w
deriving DecidableEq, Repr

/-- The MeongCipher key state (R47). `rk[r]` is the spec's RK[r+1]. -/
structure KeyState where
  keyv : Bool
  rk : Vector Block 10
deriving DecidableEq, Repr

/-- The two event bits IRQ_EN and IRQ_PEND each have (R40, R41): bit 0 for DONE, bit 1 for ERR. -/
structure EventBits where
  done : Bool
  err : Bool
deriving DecidableEq, Repr

/-- Which of the two registers of the error report the host has read since the last trap (60_exceptions.md rule R322,
H-12). The model's own. -/
structure ReportRead where
  code : Bool
  pc : Bool
deriving DecidableEq, Repr

/-- A host transaction (R80): an address, a size in bytes and, for a write, the value. A size other than 4 is a
protocol violation whatever the value (R90), so a value has the one defined width. -/
inductive Access where
  /-- `MemRead(addr, n)`. -/
  | read (addr : HostAddr) (size : Nat)
  /-- `MemWrite(addr, n, v)`. -/
  | write (addr : HostAddr) (size : Nat) (v : CmdWord)
deriving DecidableEq, Repr

/-- One turn of the scheduler: which of the two agents of R22 moves, or the reset input (R340). -/
inductive Turn where
  /-- The sequencer takes a step if a run is in progress (R152). -/
  | sequencer
  /-- The port serves one host transaction (R80). -/
  | bus (a : Access)
  /-- The reset input is asserted and released; a transaction that overlaps it has no effect (R340). -/
  | reset (overlapped : Option Access)
deriving DecidableEq, Repr

/-- The bytes of command memory that have been written since reset (R43), as pairs of host byte address (R81, R86) and
byte, addresses strictly rising. An address that is not listed has no value: what it holds is unspecified. -/
abbrev Memory := List Host.Cell

/-- The canonical form of a memory. An unlisted address reads as no value, so no listed byte can equal it. -/
abbrev Memory.wf (m : Memory) : Prop := m.Pairwise (fun c d => c.1 < d.1)

/-- The whole state of a machine (R30) whose operand registers have `w` bits, with `nreg` of them and `ncmd` command
words: W, NREG and NCMD are configuration (R14, R30). -/
structure State.Of (w nreg ncmd : Nat) where
  /-- The operand registers x[0] to x[NREG−1] (R31). -/
  regs : Vector (Word w) nreg
  /-- The command memory CMD (R43). -/
  mem : Memory
  /-- The command pointer CPC (R39). -/
  cpc : CmdIndex
  /-- STATUS.BUSY, which is the sequencer's run state (R36, R44). -/
  busy : Bool
  /-- STATUS.DONE (R36). -/
  done : Bool
  /-- STATUS.ERR (R36). -/
  err : Bool
  /-- STATUS.QR, the only condition flag (R48). -/
  qr : Bool
  /-- STATUS.HOSTERR (R36). -/
  hosterr : Bool
  /-- ERRCODE (R37). -/
  errcode : ErrorCode
  /-- ERRPC (R38). -/
  errpc : CmdIndex
  /-- IRQ_EN (R40). -/
  irqEn : EventBits
  /-- IRQ_PEND (R41). -/
  irqPend : EventBits
  /-- RETIRED (R42). -/
  retired : BitVec 32
  /-- The curve context (R45); STATUS.CURVE and STATUS.GENV are views of it. -/
  curve : CurveContext w
  /-- The MeongCipher key state (R47); STATUS.KEYV is a view of it. -/
  key : KeyState
  /-- The model's own: the turns still to come, the next one first; when it is empty every turn is the sequencer's.
  Any interleaving of R355 is some agenda. Assumption log 4. -/
  agenda : List Turn
  /-- The model's own: the word the last host read returned (R80). Assumption log 5. -/
  readData : CmdWord
  /-- The model's own: which registers of the error report the host has read since the last trap. Assumption log 22. -/
  reportRead : ReportRead
  /-- The model's own: how many free values have been drawn. Assumption log 2. -/
  draws : Nat
deriving DecidableEq, Repr

/-- The state of the machine of R12: W = 2048, NREG = 16, NCMD = 1024. -/
abbrev State := State.Of 2048 16 1024

/-- Why the machine stops with a fault. -/
inductive Fault where
  /-- The sequencer's fetch reads a command word of which some byte has not been written since reset
  (93_implementation_defined.md I2). Raised by `sequencerTurn`. SAFE: the hardware fetches some word and goes on, so
  a claim about such a run is unprovable, never false. Assumption log 6. -/
  | unwrittenCommand (index : CmdIndex)
  /-- The host writes START, which the idle machine would accept, while it has not read the error report the START
  clears: it breaks duty H-12 of 60_exceptions.md rule R322, and the breaking action is given no step
  (93_implementation_defined.md I10). Raised by `takeTurn`. SAFE: the spec assumes no host does it, and nothing can be
  proved of a state it leads to. Assumption log 12. -/
  | reportLost
deriving DecidableEq, Repr

/-- Why the model gives an instruction no meaning. -/
inductive Refusal where
  /-- The instruction named has no meaning in the model. Raised by no arm of `exec` now. SAFE: nothing can be proved
  of a state it leads to. -/
  | notModelled (mnemonic : String)
deriving DecidableEq, Repr

/-- The three outcomes of a step of a machine, of the machine of R12 where no values are given. -/
abbrev Result (w : Nat := 2048) (nreg : Nat := 16) (ncmd : Nat := 1024) :=
  Host.Outcome (State.Of w nreg ncmd) Fault Refusal

/-- An event pair with both bits clear. -/
def EventBits.clear : EventBits := { done := false, err := false }

/-- No register of the error report has been read. -/
def ReportRead.none : ReportRead := { code := false, pc := false }

/-- The state right after reset (R60), for any configuration. DESIGN CHOICE, unsafe (assumption log 1): the operand
registers, the constants of the empty curve context and RK, which the spec leaves unspecified, are zero; the agenda is
empty, the last read word and the draw counter zero, no report read (assumption logs 2, 4, 5, 22). No byte of command
memory has been written. -/
def resetState (w nreg ncmd : Nat) : State.Of w nreg ncmd where
  regs := Vector.replicate nreg 0
  mem := []
  cpc := 0
  busy := false
  done := false
  err := false
  qr := false
  hosterr := false
  errcode := .none
  errpc := 0
  irqEn := .clear
  irqPend := .clear
  retired := 0
  curve := { id := .none, ca := 0, cb := 0, cp := 0, cn := 0, cgx := 0, cgy := 0 }
  key := { keyv := false, rk := Vector.replicate 10 (Vector.replicate 16 0) }
  agenda := []
  readData := 0
  reportRead := .none
  draws := 0

/-- The state right after reset (R60) of the machine of R12. -/
def State.reset : State := resetState 2048 16 1024

end Sys2Proof.Machine
end

