-- ==== Sys2Proof/Machine/Ops.lean ====
section
/-! DEFINITION. The named operations every meaning is built from: command memory by byte and by word, the operand
registers, and the ends of a step: advancing, ending a run by HALT, taking the error trap, starting and aborting a run,
and the reset event. -/

namespace Sys2Proof.Machine

variable {w nreg ncmd : Nat}

/-! Command memory. -/

/-- The byte at a host byte address; none where nothing has been written since reset. -/
def memRead : Memory → Nat → Option Byte
  | [], _ => none
  | (k, b) :: rest, a => if k = a then some b else memRead rest a

/-- Write one byte, keeping the addresses strictly rising. -/
def memWrite : Memory → Nat → Byte → Memory
  | [], a, v => [(a, v)]
  | (k, b) :: rest, a, v =>
    if a < k then (a, v) :: (k, b) :: rest
    else if a = k then (a, v) :: rest
    else (k, b) :: memWrite rest a v

/-- The host byte address of byte `j` of command word `k` (R81, R86). -/
def cmdAddr (k j : Nat) : Nat := Config.cmdBase + 4 * k + j

/-- CMD[k], its bytes in the order of R86; none where one of them has not been written since reset. -/
def readCmd (m : Memory) (k : Nat) : Option CmdWord :=
  match memRead m (cmdAddr k 0), memRead m (cmdAddr k 1), memRead m (cmdAddr k 2), memRead m (cmdAddr k 3) with
  | some b0, some b1, some b2, some b3 => some (wordOfBytes b0 b1 b2 b3)
  | _, _, _, _ => none

/-- CMD[k] <- w (R83), byte by byte in the order of R86. -/
def writeCmd (m : Memory) (k : Nat) (w : CmdWord) : Memory :=
  memWrite (memWrite (memWrite (memWrite m (cmdAddr k 0) (byteOfWord w 0)) (cmdAddr k 1) (byteOfWord w 1))
    (cmdAddr k 2) (byteOfWord w 2)) (cmdAddr k 3) (byteOfWord w 3)

/-! Operand registers (R16, R31): no alias, bank or hardwired register. -/

/-- x[r]. -/
def State.Of.reg (s : State.Of w nreg ncmd) (r : Reg nreg) : Word w := s.regs[r]

/-- x[r] <- v. -/
def State.Of.setReg (s : State.Of w nreg ncmd) (r : Reg nreg) (v : Word w) : State.Of w nreg ncmd :=
  { s with regs := s.regs.set r.val v r.isLt }

/-! The ends of a step. -/

/-- A command commits: cpc <- cpc + 1 (R154) and RETIRED <- RETIRED + 1 modulo 2^32 (R155). -/
def advance (s : State.Of w nreg ncmd) : State.Of w nreg ncmd := { s with cpc := s.cpc + 1, retired := s.retired + 1 }

/-- The end of a run by HALT (R156). -/
def endRun (s : State.Of w nreg ncmd) : State.Of w nreg ncmd :=
  { s with busy := false, done := true, irqPend := { s.irqPend with done := true } }

/-- Taking the error trap (R304): the one exception entry of this machine. The pc is saved in ERRPC, the code in
ERRCODE, the run ends, ERR and IRQ_PEND.ERR are set whatever IRQ_EN holds, and nothing else changes. The host has read
nothing of the new report. -/
def trap (e : ErrorCode) (s : State.Of w nreg ncmd) : State.Of w nreg ncmd :=
  { s with
    errcode := e, errpc := s.cpc, err := true, busy := false, irqPend := { s.irqPend with err := true },
    reportRead := .none }

/-- An accepted START (R151). It is also the return from a trap: a new run begins at CPC, which after a trap is still
the trapping index (R164, R312). -/
def beginRun (s : State.Of w nreg ncmd) : State.Of w nreg ncmd :=
  { s with busy := true, done := false, err := false, errcode := .none, errpc := 0 }

/-- STATUS.HOSTERR <- 1 (R36, R90). -/
def setHostErr (s : State.Of w nreg ncmd) : State.Of w nreg ncmd := { s with hosterr := true }

/-- START (R151): accepted while idle, else ignored with HOSTERR. -/
def start (s : State.Of w nreg ncmd) : State.Of w nreg ncmd := if s.busy then setHostErr s else beginRun s

/-- ABORT (R310): a run in progress ends at this command boundary; while idle there is no effect. -/
def abort (s : State.Of w nreg ncmd) : State.Of w nreg ncmd := if s.busy then trap .aborted s else s

/-- The two phases of a command (R19): its checks and computations either raise a code, and the trap is taken from the
state before the command with every write discarded (R305), or give the state with its writes, which commits. -/
def finish (s : State.Of w nreg ncmd) : Except ErrorCode (State.Of w nreg ncmd) → Result w nreg ncmd
  | .ok t => .next (advance t)
  | .error e => .next (trap e s)

/-- A word outside the encodings of its row is ILLEGAL before any operand is read (R128, R302). Decoding never gives
one; a meaning answers it for a command built by hand. -/
def checkLegal (legal : Bool) : Except ErrorCode Unit := if legal then .ok () else .error .illegal

/-- The state a reset event leaves (R60, R340). The stores R60 leaves unspecified hold fresh free values, the next
ones of the draw counter (R342; assumption log 2); command memory has no written byte. The turns to come, the last
read word and the counter are the model's own and go on. -/
def resetEvent (s : State.Of w nreg ncmd) : State.Of w nreg ncmd :=
  { resetState w nreg ncmd with
    regs := Vector.ofFn (fun i : Fin nreg => Config.freeWord w (s.draws + i.val))
    curve :=
      { id := .none
        ca := Config.freeWord w (s.draws + nreg)
        cb := Config.freeWord w (s.draws + nreg + 1)
        cp := Config.freeWord w (s.draws + nreg + 2)
        cn := Config.freeWord w (s.draws + nreg + 3)
        cgx := Config.freeWord w (s.draws + nreg + 4)
        cgy := Config.freeWord w (s.draws + nreg + 5) }
    key := { keyv := false, rk := Vector.ofFn (fun i : Fin 10 => Config.freeBlock (s.draws + nreg + 6 + i.val)) }
    agenda := s.agenda
    readData := s.readData
    draws := s.draws + nreg + 16 }

end Sys2Proof.Machine
end

