-- ==== Sys2Proof/Machine/Operands.lean ====
section
/-! DEFINITION. Every operand form of KCC (30_encoding.md rule R126): a register value, a point in an even register
pair (42_elliptic_curve.md rules R213, R214), an immediate (R125), and the MeongCipher block in a register's low 128
bits (43_meongcipher.md rule R261). -/

namespace Sys2Proof.Machine

variable {w nreg ncmd : Nat}

/-- The unsigned integer in x[r] (R31). -/
def State.Of.val (s : State.Of w nreg ncmd) (r : Reg nreg) : Nat := (s.reg r).toNat

/-- The W-bit word of an integer below 2^W. -/
def toWord (n : Nat) : Word w := BitVec.ofNat w n

/-- x[r] <- n for an integer n below 2^W. -/
def State.Of.setVal (s : State.Of w nreg ncmd) (r : Reg nreg) (n : Nat) : State.Of w nreg ncmd := s.setReg r (toWord n)

/-- LDI's immediate: zero-extended to W bits (R125). -/
def zextImm (imm : BitVec 16) : Word w := imm.setWidth w

/-- A point of the curve unit: the identity INF, or a pair of coordinates (R210). -/
inductive Point where
  | inf
  | affine (x y : Nat)
deriving DecidableEq, Repr

/-- The second register of the pair that begins at `r`, the next one (R121). NREG is even, so the next of an even one
exists. -/
def pairSnd (r : Reg nreg) : Reg nreg := ⟨(r.val + 1) % nreg, Nat.mod_lt _ r.pos⟩

/-- The field prime P of the loaded context (R45). -/
def State.Of.prime (s : State.Of w nreg ncmd) : Nat := s.curve.cp.toNat

/-- The coefficient A of the loaded context (R45). -/
def State.Of.coeffA (s : State.Of w nreg ncmd) : Nat := s.curve.ca.toNat

/-- `readPoint` (R214): INF for the sentinel, else both coordinates must be below P. -/
def readPoint (s : State.Of w nreg ncmd) (r : Reg nreg) : Except ErrorCode Point :=
  if s.reg r = Config.ones ∧ s.reg (pairSnd r) = Config.ones then .ok .inf
  else if s.prime ≤ s.val r ∨ s.prime ≤ s.val (pairSnd r) then .error .badPoint
  else .ok (.affine (s.val r) (s.val (pairSnd r)))

/-- `writePoint` (R214). -/
def writePoint (s : State.Of w nreg ncmd) (r : Reg nreg) : Point → State.Of w nreg ncmd
  | .inf => (s.setReg r Config.ones).setReg (pairSnd r) Config.ones
  | .affine x y => (s.setVal r x).setVal (pairSnd r) y

/-- The 16 bytes in a register's low 128 bits, byte 0 the least significant (R261). -/
def blockOf (v : Word w) : Block := Vector.ofFn (fun i : Fin 16 => v.extractLsb' (8 * i.val) 8)

/-- The integer whose little-endian bytes are `bs`. -/
def natOfBytes : List Byte → Nat
  | [] => 0
  | b :: bs => b.toNat + 256 * natOfBytes bs

/-- The register value of a block: its bytes in the low 128 bits, zeros above (R261). -/
def wordOfBlock (b : Block) : Word w := toWord (natOfBytes b.toList)

end Sys2Proof.Machine
end

