-- ==== Sys2Proof/Machine/Flags.lean ====
section
/-! DEFINITION. Every flag and derived bit the spec gives: the QR flag (R188), GENV (R46), the STATUS word (R36), the
codes of ERRCODE and CURVE_ID (R300, R45), and the interrupt output (R49). -/

namespace Sys2Proof.Machine

variable {w nreg ncmd : Nat}

/-- The QR flag of a MODSQRT result r for the input a modulo p (R188). -/
def qrOf (r a p : Nat) : Bool := r * r % p == a % p

/-- The code ERRCODE bits 7:0 hold (R300). -/
def ErrorCode.code : ErrorCode → BitVec 8
  | .none => 0
  | .illegal => 1
  | .badModulus => 2
  | .notInvertible => 3
  | .sqrtModulus => 4
  | .noCurve => 5
  | .noGenerator => 6
  | .badPoint => 7
  | .badCurve => 8
  | .keyLength => 9
  | .noKey => 10
  | .pcRange => 11
  | .aborted => 12

/-- The two bits of CURVE_ID (R45). -/
def CurveId.code : CurveId → BitVec 2
  | .none => 0
  | .secp256r1 => 1
  | .brainpoolP512r1 => 2
  | .custom => 3

/-- STATUS.GENV: the context has an order and a generator (R46). -/
def CurveId.genv : CurveId → Bool
  | .none => false
  | .secp256r1 => true
  | .brainpoolP512r1 => true
  | .custom => false

/-- The word a read of STATUS returns (R36). -/
def statusWord (s : State.Of w nreg ncmd) : CmdWord :=
  0#23 ++ BitVec.ofBool s.hosterr ++ BitVec.ofBool s.curve.id.genv ++ s.curve.id.code ++ BitVec.ofBool s.key.keyv ++
    BitVec.ofBool s.qr ++ BitVec.ofBool s.err ++ BitVec.ofBool s.done ++ BitVec.ofBool s.busy

/-- The word a read of IRQ_EN or IRQ_PEND returns (R40, R41). -/
def EventBits.word (b : EventBits) : CmdWord := 0#30 ++ BitVec.ofBool b.err ++ BitVec.ofBool b.done

/-- The event bits a written word holds in its bits 0 and 1 (R40). -/
def EventBits.ofWord (v : CmdWord) : EventBits := { done := v.getLsbD 0, err := v.getLsbD 1 }

/-- Write-1-to-clear (R41). -/
def EventBits.w1c (b : EventBits) (v : CmdWord) : EventBits :=
  { done := b.done && !v.getLsbD 0, err := b.err && !v.getLsbD 1 }

/-- The interrupt output (R49). -/
def irq (s : State.Of w nreg ncmd) : Bool := (s.irqPend.done && s.irqEn.done) || (s.irqPend.err && s.irqEn.err)

end Sys2Proof.Machine
end

