-- ==== Sys2Proof/Machine/Sequencer.lean ====
section
/-! DEFINITION. The sequencer's own commands, 40_sequencer.md rules R158 to R161, and its turn: fetch (R153), decode
(R128) and execute (R157). -/

namespace Sys2Proof.Machine

variable {w nreg ncmd : Nat}

/-- NOP (R158). -/
def execNop (s : State.Of w nreg ncmd) : Result w nreg ncmd := finish s (.ok s)

/-- HALT (R159): commits like any command, and in the same step ends the run (R156). -/
def execHalt (s : State.Of w nreg ncmd) : Result w nreg ncmd := .next (endRun (advance s))

/-- MOV (R160). -/
def execMov (rd ra : Reg nreg) (s : State.Of w nreg ncmd) : Result w nreg ncmd :=
  finish s (.ok (s.setReg rd (s.reg ra)))

/-- LDI (R161). -/
def execLdi (rd : Reg nreg) (imm : BitVec 16) (s : State.Of w nreg ncmd) : Result w nreg ncmd :=
  finish s (.ok (s.setReg rd (zextImm imm)))

/-- One turn of the sequencer (R152, R157). Idle, it takes no step (R150). A fetch at or past NCMD raises E_PC_RANGE
(R153), a word that decodes to ILLEGAL raises E_ILLEGAL (R128), and any other word is executed by `execute`. A word
not written since reset is the fault of 93_implementation_defined.md I2 (assumption log 6). -/
def sequencerTurn (execute : Instr → State.Of w nreg ncmd → Result w nreg ncmd) (s : State.Of w nreg ncmd) :
    Result w nreg ncmd :=
  if s.busy then
    if ncmd ≤ s.cpc.toNat then .next (trap .pcRange s)
    else
      match readCmd s.mem s.cpc.toNat with
      | none => .fault (.unwrittenCommand s.cpc)
      | some w =>
        match decode w with
        | .error _ => .next (trap .illegal s)
        | .ok i => execute i s
  else .next s

end Sys2Proof.Machine
end

