-- ==== Sys2Proof/Machine/Bus.lean ====
section
/-! DEFINITION. The host's side of the machine, at transaction level: the address map (20_memory.md rule R81), every
read and write of it (R83 to R93 and 10_state.md rules R33 to R42), and the turns of the two agents (R22, R355). -/

namespace Sys2Proof.Machine

variable {w nreg ncmd : Nat}

/-- The control registers of the map (R81). -/
inductive ControlReg where
  | id | config | ctrl | status | errcode | errpc | cpc | irqEn | irqPend | retired
deriving DecidableEq, Repr

/-- What an aligned host address names (R81). -/
inductive Target (nreg : Nat) where
  /-- A control register. -/
  | control (r : ControlReg)
  /-- Command word `k` (R83). -/
  | command (k : Nat)
  /-- Word `k` of operand register `r` (R84). -/
  | operand (r : Reg nreg) (k : Nat)
  /-- No register (R88). -/
  | unmapped
deriving DecidableEq, Repr

/-- The control register at an offset below 0x1000 (R81). -/
def controlTarget (offset : Nat) : Target 16 :=
  match offset with
  | 0x00 => .control .id
  | 0x04 => .control .config
  | 0x08 => .control .ctrl
  | 0x0C => .control .status
  | 0x10 => .control .errcode
  | 0x14 => .control .errpc
  | 0x18 => .control .cpc
  | 0x1C => .control .irqEn
  | 0x20 => .control .irqPend
  | 0x24 => .control .retired
  | _ => .unmapped

/-- The address map (R81, R83, R84), which holds for the values of R12 (R82). -/
def target (addr : HostAddr) : Target 16 :=
  let offset := addr.extractLsb' 0 12
  match (addr.extractLsb' 12 4).toNat with
  | 0x0 => controlTarget offset.toNat
  | 0x1 => .command (addr.extractLsb' 2 10).toNat
  | 0x4 => .operand (regOfField (addr.extractLsb' 8 4)) (addr.extractLsb' 2 6).toNat
  | _ => .unmapped

/-- An access the port defines: 4 bytes at a 4-byte-aligned address (R90). -/
def accessOk (addr : HostAddr) (size : Nat) : Bool := size == 4 && addr.toNat % 4 == 0

/-- The read returns `v`. -/
def reply (v : CmdWord) (s : State.Of w nreg ncmd) : State.Of w nreg ncmd := { s with readData := v }

/-- The read returns an unspecified word: the next free value (R92; 93_implementation_defined.md I2, I5, I11). -/
def replyFree (s : State.Of w nreg ncmd) : State.Of w nreg ncmd :=
  { s with readData := Config.freeBus s.draws, draws := s.draws + 1 }

/-- What the host has read of the error report, after a read of a control register. -/
def ReportRead.after (p : ReportRead) : ControlReg → ReportRead
  | .errcode => { p with code := true }
  | .errpc => { p with pc := true }
  | .id | .config | .ctrl | .status | .cpc | .irqEn | .irqPend | .retired => p

/-- The word a read of a control register returns (R33 to R42); it has no side effect (R93). -/
def controlRead (s : State.Of w nreg ncmd) : ControlReg → CmdWord
  | .id => Config.idWord
  | .config => Config.configWord w nreg ncmd
  | .ctrl => 0
  | .status => statusWord s
  | .errcode => s.errcode.code.setWidth 32
  | .errpc => s.errpc.setWidth 32
  | .cpc => s.cpc.setWidth 32
  | .irqEn => s.irqEn.word
  | .irqPend => s.irqPend.word
  | .retired => s.retired

/-- Word `k` of a register window: bits 32·k+31 to 32·k, word 0 the least significant (R84). -/
def regWord (v : Word w) (k : Nat) : CmdWord := v.extractLsb' (32 * k) 32

/-- Replace exactly word `k` of a register value (R84). -/
def setRegWord (v : Word w) (k : Nat) (part : CmdWord) : Word w :=
  (v &&& ~~~((BitVec.allOnes 32).setWidth w <<< (32 * k))) ||| (part.setWidth w <<< (32 * k))

/-- `MemRead(addr, 4)` of what an aligned address names (R83, R84, R88, R92). -/
def targetRead (s : State.Of w nreg ncmd) : Target nreg → State.Of w nreg ncmd
  | .control r => { reply (controlRead s r) s with reportRead := s.reportRead.after r }
  | .command k =>
    if s.busy then replyFree s
    else
      match readCmd s.mem k with
      | some word => reply word s
      | none => replyFree s
  | .operand r k => if s.busy then replyFree s else reply (regWord (s.reg r) k) s
  | .unmapped => reply 0 (setHostErr s)

/-- `MemRead` (R80): a protocol violation returns 0 and sets HOSTERR (R90). -/
def busRead (addr : HostAddr) (size : Nat) (s : State) : State :=
  if accessOk addr size then targetRead s (target addr) else reply 0 (setHostErr s)

/-- A write of CTRL (R35): ABORT alone acts where both bits are set, and HOSTERR is then set. -/
def writeCtrl (v : CmdWord) (s : State.Of w nreg ncmd) : State.Of w nreg ncmd :=
  if v.getLsbD 1 then
    if v.getLsbD 0 then setHostErr (abort s) else abort s
  else if v.getLsbD 0 then start s else s

/-- A write that is defined only while idle; while busy it is ignored and sets HOSTERR (R92). -/
def whileIdle (s : State.Of w nreg ncmd) (t : State.Of w nreg ncmd) : State.Of w nreg ncmd :=
  if s.busy then setHostErr s else t

/-- A write of a control register (R33 to R42); a read-only one and every reserved bit is ignored (R89). -/
def controlWrite (v : CmdWord) (s : State.Of w nreg ncmd) : ControlReg → State.Of w nreg ncmd
  | .id => s
  | .config => s
  | .ctrl => writeCtrl v s
  | .status => { s with hosterr := s.hosterr && !v.getLsbD 8 }
  | .errcode => s
  | .errpc => s
  | .cpc => whileIdle s { s with cpc := v.setWidth 16 }
  | .irqEn => { s with irqEn := .ofWord v }
  | .irqPend => { s with irqPend := s.irqPend.w1c v }
  | .retired => s

/-- `MemWrite(addr, 4, v)` of what an aligned address names (R83, R84, R88, R92). -/
def targetWrite (v : CmdWord) (s : State.Of w nreg ncmd) : Target nreg → State.Of w nreg ncmd
  | .control r => controlWrite v s r
  | .command k => whileIdle s { s with mem := writeCmd s.mem k v }
  | .operand r k => whileIdle s (s.setReg r (setRegWord (s.reg r) k v))
  | .unmapped => setHostErr s

/-- `MemWrite` (R80): a protocol violation has no effect but HOSTERR (R90). -/
def busWrite (addr : HostAddr) (size : Nat) (v : CmdWord) (s : State) : State :=
  if accessOk addr size then targetWrite v s (target addr) else setHostErr s

/-- The port serves one host transaction (R80). -/
def serve (s : State) : Access → State
  | .read addr size => busRead addr size s
  | .write addr size v => busWrite addr size v s

/-- A reset, with the transaction that overlaps it: that transaction has no effect, and a read in it returns an
unspecified value (R340; 93_implementation_defined.md I11). -/
def serveReset (s : State) : Option Access → State
  | some (.read _ _) => replyFree (resetEvent s)
  | some (.write _ _ _) => resetEvent s
  | none => resetEvent s

/-- The access breaks duty H-12 (60_exceptions.md rule R322): it is a START that would be accepted (R151) after a run
that failed, and the host has not read both registers of the error report, which START clears. -/
def losesReport (s : State) : Access → Bool
  | .read _ _ => false
  | .write addr size v =>
    accessOk addr size && target addr == .control .ctrl && v.getLsbD 0 && !v.getLsbD 1 && !s.busy && s.err &&
      !(s.reportRead.code && s.reportRead.pc)

/-- One turn (R22, R355). A host access that breaks duty H-12 has none (93_implementation_defined.md I10). -/
def takeTurn (execute : Instr → State → Result) (t : Turn) (s : State) : Result :=
  match t with
  | .sequencer => sequencerTurn execute s
  | .bus a => if losesReport s a then .fault .reportLost else .next (serve s a)
  | .reset o => .next (serveReset s o)

/-- The next turn of the agenda; when it is empty, the sequencer's (assumption log 4). -/
def nextTurn (execute : Instr → State → Result) (s : State) : Result :=
  match s.agenda with
  | [] => sequencerTurn execute s
  | t :: rest => takeTurn execute t { s with agenda := rest }

/-- Place a command word where the next step fetches it, and start a run there: the word is written to CMD at CPC (at
0 where CPC is not below NCMD), no other turn comes first, and START is accepted. It stands for the host's load
(R344; assumption log 8). -/
def placeCommand (s : State) (w : CmdWord) : State :=
  let k : CmdIndex := if s.cpc.toNat < 1024 then s.cpc else 0
  beginRun { s with mem := writeCmd s.mem k.toNat w, cpc := k, agenda := [] }

end Sys2Proof.Machine
end

