-- ==== Sys2Proof/Machine/Cipher.lean ====
section
/-! DEFINITION. The MeongCipher unit, 43_meongcipher.md rules R260 to R274. Every layer takes the tables as an
argument (93_implementation_defined.md I13, I14), so that it can be evaluated on a configuration, and so does every
command in its `Of` form; the core's own are `Config.cipher`. -/

namespace Sys2Proof.Machine

variable {w nreg ncmd : Nat}

/-! Key schedule (R262). -/

/-- One element of the matrix product, reduced modulo 256. -/
def mulRow (t : CipherTables) (k : Block) (i : Fin 16) : Byte :=
  BitVec.ofNat 8 (List.ofFn (fun j : Fin 16 => (t.ksMul i j).toNat * k[j].toNat)).sum

/-- K_r from K_{r−1}. -/
def nextKey (t : CipherTables) (k : Block) : Block := Vector.ofFn (fun i : Fin 16 => mulRow t k i ^^^ t.ksAdd i)

/-- K_r from the master key: `r` rounds of the schedule. -/
def roundKey (t : CipherTables) (k0 : Block) : Nat → Block
  | 0 => k0
  | r + 1 => nextKey t (roundKey t k0 r)

/-- RK[1..10] (R262, R263). -/
def keySchedule (t : CipherTables) (k0 : Block) : Vector Block 10 :=
  Vector.ofFn (fun r : Fin 10 => roundKey t k0 (r.val + 1))

/-! Layer functions. -/

/-- SUB and ISUB (R264): a byte bijection on every byte. -/
def subBytes (f : Equiv.Perm Byte) (s : Block) : Block := Vector.ofFn (fun i : Fin 16 => f s[i])

/-- Bit `j` of a block: bit 7 − (j mod 8) of byte j div 8 (R265). -/
def blockBit (s : Block) (j : Fin 128) : Bool := s[j.val / 8].getMsbD (j.val % 8)

/-- The block whose bit `j` is `f j` (R265). -/
def blockOfBits (f : Fin 128 → Bool) : Block :=
  Vector.ofFn (fun i : Fin 16 => BitVec.ofFnBE (fun k : Fin 8 => f ⟨8 * i.val + k.val, by omega⟩))

/-- BPERM (R265): a gather. -/
def bitPermute (s : Block) (t : Equiv.Perm (Fin 128)) : Block := blockOfBits (fun j => blockBit s (t j))

/-- BYPERM and, with the inverse table, IBYPERM (R266): a gather. -/
def bytePermute (s : Block) (t : Equiv.Perm (Fin 16)) : Block := Vector.ofFn (fun i : Fin 16 => s[t i])

/-- Bytes 0 to 7 of a block. -/
def loHalf (s : Block) : Half := Vector.ofFn (fun i : Fin 8 => s[i.val])

/-- Bytes 8 to 15 of a block. -/
def hiHalf (s : Block) : Half := Vector.ofFn (fun i : Fin 8 => s[i.val + 8])

/-- `a ‖ b` on byte arrays: `a` first (R268). -/
def joinHalves (a b : Half) : Block :=
  Vector.ofFn (fun i : Fin 16 => if h : i.val < 8 then a[i.val] else b[i.val - 8])

/-- Bytewise exclusive or. -/
def xorHalf (a b : Half) : Half := Vector.ofFn (fun i : Fin 8 => a[i] ^^^ b[i])

/-! Encryption and decryption. -/

/-- One encryption round with subkey `k` (R268, step 2). -/
def encRound (t : CipherTables) (s : Block) (k : Block) : Block :=
  let s := bytePermute (subBytes t.sbox s) t.perm3
  let l' := xorHalf (loHalf s) (t.mix (hiHalf s) k)
  let r' := xorHalf (hiHalf s) (t.mix l' k)
  joinHalves r' l'

/-- `meong_encrypt` (R268). -/
def meongEncrypt (t : CipherTables) (b : Block) (rk : Vector Block 10) : Block :=
  bitPermute (rk.toList.foldl (encRound t) (bitPermute b t.perm2)) t.perm1

/-- One decryption round with subkey `k` (R269). -/
def decRound (t : CipherTables) (s : Block) (k : Block) : Block :=
  let r := xorHalf (loHalf s) (t.mix (hiHalf s) k)
  let l := xorHalf (hiHalf s) (t.mix r k)
  subBytes t.sbox.symm (bytePermute (joinHalves l r) t.perm3.symm)

/-- `meong_decrypt` (R269). -/
def meongDecrypt (t : CipherTables) (c : Block) (rk : Vector Block 10) : Block :=
  bitPermute (rk.toList.reverse.foldl (decRound t) (bitPermute c t.perm1.symm)) t.perm2.symm

/-! Commands. -/

/-- The key length MKEY accepts, KEYLEN (R12, R270). -/
def keyLength : Nat := 16

/-- E_KEY_LENGTH (R270): the whole W-bit value must equal 16. -/
def checkKeyLength (n : Nat) : Except ErrorCode Unit := if n ≠ keyLength then .error .keyLength else .ok ()

/-- E_NO_KEY (R271, R272). -/
def checkKey (s : State.Of w nreg ncmd) : Except ErrorCode Unit := if s.key.keyv then .ok () else .error .noKey

/-- MKEY (R270) with the tables as an argument. -/
def execMkeyOf (t : CipherTables) (ra rb : Reg nreg) (s : State.Of w nreg ncmd) : Result w nreg ncmd :=
  finish s do
    checkKeyLength (s.val rb)
    .ok { s with key := { keyv := true, rk := keySchedule t (blockOf (s.reg ra)) } }

/-- MKEY (R270). -/
def execMkey (ra rb : Reg nreg) (s : State.Of w nreg ncmd) : Result w nreg ncmd := execMkeyOf Config.cipher ra rb s

/-- MENC (R271) with the tables as an argument. -/
def execMencOf (t : CipherTables) (rd ra : Reg nreg) (s : State.Of w nreg ncmd) : Result w nreg ncmd :=
  finish s do
    checkKey s
    .ok (s.setReg rd (wordOfBlock (meongEncrypt t (blockOf (s.reg ra)) s.key.rk)))

/-- MENC (R271). -/
def execMenc (rd ra : Reg nreg) (s : State.Of w nreg ncmd) : Result w nreg ncmd := execMencOf Config.cipher rd ra s

/-- MDEC (R272) with the tables as an argument. -/
def execMdecOf (t : CipherTables) (rd ra : Reg nreg) (s : State.Of w nreg ncmd) : Result w nreg ncmd :=
  finish s do
    checkKey s
    .ok (s.setReg rd (wordOfBlock (meongDecrypt t (blockOf (s.reg ra)) s.key.rk)))

/-- MDEC (R272). -/
def execMdec (rd ra : Reg nreg) (s : State.Of w nreg ncmd) : Result w nreg ncmd := execMdecOf Config.cipher rd ra s

end Sys2Proof.Machine
end

