-- ==== Sys2Proof/Machine/Arith.lean ====
section
/-! DEFINITION. The exact integer arithmetic of 00_scope.md rule R17 and the loops of 41_modular.md rule R183, on
unbounded integers; only the value a command writes is narrowed to W bits. -/

namespace Sys2Proof.Machine

/-- The number of bits of `n`; 0 for 0 (R183). -/
def bitlen (n : Nat) : Nat := if n = 0 then 0 else Nat.log2 n + 1

/-- `z mod m` on the integers, the residue in [0, m), also for a negative z (R17, R211). -/
def imod (z : Int) (m : Nat) : Nat := (z % (m : Int)).toNat

/-- The square-and-multiply loop of R183 over the exponent bits `i - 1` down to 0, from the partial product `r`. -/
def powLoop (a e m : Nat) : Nat → Nat → Nat
  | 0, r => r
  | i + 1, r => powLoop a e m i (if e.testBit i then r * r % m * a % m else r * r % m)

/-- `modpow(a, e, m)` (R183). -/
def powMod (a e m : Nat) : Nat := powLoop a e m (bitlen e) 1 % m

/-- The extended Euclidean algorithm (R185) on remainders `r0`, `r1` with the coefficients `t0`, `t1` of the input;
the first argument bounds its steps, each of which lowers `r1`. -/
def egcd : Nat → Nat → Nat → Int → Int → Int
  | 0, _, _, t0, _ => t0
  | fuel + 1, r0, r1, t0, t1 =>
    if r1 = 0 then t0 else egcd fuel r1 (r0 % r1) t1 (t0 - (r0 / r1 : Nat) * t1)

/-- `inv_m(a)` (R17): for gcd(a mod m, m) = 1, the unique residue whose product with a is 1 modulo m. -/
def invMod (a m : Nat) : Nat := imod (egcd (m + 1) m (a % m) 0 1) m

end Sys2Proof.Machine
end

