-- ==== Sys2Proof/Machine/Modular.lean ====
section
/-! DEFINITION. The modular arithmetic unit, 41_modular.md rules R180 to R189. -/

namespace Sys2Proof.Machine

variable {w nreg ncmd : Nat}

/-- `checkModulus` (R180). -/
def checkModulus (m : Nat) : Except ErrorCode Unit :=
  if m < 3 ∨ m % 2 = 0 then .error .badModulus else .ok ()

/-- MODMUL (R182). -/
def execModmul (rd ra rb rm : Reg nreg) (s : State.Of w nreg ncmd) : Result w nreg ncmd :=
  finish s do
    checkModulus (s.val rm)
    .ok (s.setVal rd (s.val ra * s.val rb % s.val rm))

/-- MODEXP (R183). -/
def execModexp (rd ra rb rm : Reg nreg) (s : State.Of w nreg ncmd) : Result w nreg ncmd :=
  finish s do
    checkModulus (s.val rm)
    .ok (s.setVal rd (powMod (s.val ra) (s.val rb) (s.val rm)))

/-- E_NOT_INVERTIBLE for a value that has no inverse modulo m (R186, R219). -/
def checkInvertible (a m : Nat) : Except ErrorCode Unit :=
  if Nat.gcd (a % m) m ≠ 1 then .error .notInvertible else .ok ()

/-- MODINV (R185). -/
def execModinv (rd ra rm : Reg nreg) (s : State.Of w nreg ncmd) : Result w nreg ncmd :=
  finish s do
    checkModulus (s.val rm)
    checkInvertible (s.val ra) (s.val rm)
    .ok (s.setVal rd (invMod (s.val ra) (s.val rm)))

/-- E_SQRT_MODULUS for a modulus that is not 3 modulo 4 (R187). -/
def checkSqrtModulus (p : Nat) : Except ErrorCode Unit :=
  if p % 4 ≠ 3 then .error .sqrtModulus else .ok ()

/-- The value MODSQRT writes: a^((p+1)/4) mod p (R187). -/
def sqrtMod (a p : Nat) : Nat := powMod a ((p + 1) / 4) p

/-- MODSQRT (R187), with the QR flag (R188). -/
def execModsqrt (rd ra rm : Reg nreg) (s : State.Of w nreg ncmd) : Result w nreg ncmd :=
  finish s do
    checkModulus (s.val rm)
    checkSqrtModulus (s.val rm)
    let r := sqrtMod (s.val ra) (s.val rm)
    .ok { s.setVal rd r with qr := qrOf r (s.val ra) (s.val rm) }

end Sys2Proof.Machine
end

