-- ==== Sys2Proof/Machine/Curve.lean ====
section
/-! DEFINITION. The elliptic-curve unit, 42_elliptic_curve.md rules R210 to R230. -/

namespace Sys2Proof.Machine

variable {w nreg ncmd : Nat}

/-- `checkCurve` (R215). -/
def checkCurve (s : State.Of w nreg ncmd) : Except ErrorCode Unit :=
  if s.curve.id = .none then .error .noCurve else .ok ()

/-- E_NO_GENERATOR: N or G is needed and the context is custom (R218, R227). -/
def checkGenerator (s : State.Of w nreg ncmd) : Except ErrorCode Unit :=
  if s.curve.id = .custom then .error .noGenerator else .ok ()

/-! Point arithmetic over the prime `p` with coefficient `a` (R219, R220, R224). -/

/-- The slope of the chord or tangent, `num · inv(den)` modulo p, or E_NOT_INVERTIBLE (R219). -/
def ecSlope (p num den : Nat) : Except ErrorCode Nat := do
  checkInvertible den p
  .ok (num * invMod den p % p)

/-- The third point of the line of slope `l` through (x1, y1) with the other abscissa x2, reflected (R219). -/
def thirdPoint (p l x1 y1 x2 : Nat) : Point :=
  let x3 := imod ((l : Int) * l - x1 - x2) p
  .affine x3 (imod ((l : Int) * ((x1 : Int) - x3) - y1) p)

/-- `ecadd` (R219): an identity operand, then P1 = −P2, then tangent or chord. -/
def ecAdd (p a : Nat) (p1 p2 : Point) : Except ErrorCode Point :=
  match p1, p2 with
  | .inf, q => .ok q
  | .affine x y, .inf => .ok (.affine x y)
  | .affine x1 y1, .affine x2 y2 =>
    if x1 = x2 ∧ y1 = imod ((p : Int) - y2) p then .ok .inf
    else if x1 = x2 ∧ y1 = y2 then do
      let l ← ecSlope p ((3 * x1 * x1 + a) % p) (2 * y1 % p)
      .ok (thirdPoint p l x1 y1 x2)
    else do
      let l ← ecSlope p (imod ((y2 : Int) - y1) p) (imod ((x2 : Int) - x1) p)
      .ok (thirdPoint p l x1 y1 x2)

/-- `ecneg` (R220). -/
def ecNeg (p : Nat) : Point → Point
  | .inf => .inf
  | .affine x y => .affine x (imod ((p : Int) - y) p)

/-- The add step of R224's loop: the point is added when the scalar bit is 1. -/
def ecAddBit (p a : Nat) (p1 : Point) (bit : Bool) (d : Point) : Except ErrorCode Point :=
  if bit then ecAdd p a d p1 else .ok d

/-- The double-and-add loop of R224 over the scalar bits `i - 1` down to 0, from the accumulator `r`. -/
def ecMulLoop (p a : Nat) (p1 : Point) (k : Nat) : Nat → Point → Except ErrorCode Point
  | 0, r => .ok r
  | i + 1, r => do
    let d ← ecAdd p a r r
    let r' ← ecAddBit p a p1 (k.testBit i) d
    ecMulLoop p a p1 k i r'

/-- `ecmul` (R224), negated when the modifier is set (R225). -/
def ecMul (p a : Nat) (p1 : Point) (k : Nat) (neg : Bool) : Except ErrorCode Point := do
  let r ← ecMulLoop p a p1 k (bitlen k) .inf
  .ok (if neg then ecNeg p r else r)

/-! Curve-context commands. -/

/-- The preset a curve id names (R212, R216). -/
def presetOf (presets : CurvePresets) (imm : BitVec 16) : CurveId × CurvePreset :=
  if imm = 1 then (.secp256r1, presets.secp256r1) else (.brainpoolP512r1, presets.brainpoolP512r1)

/-- The context a preset makes (R216). A constant that is no W-bit value is taken modulo 2^W (assumption log 24). -/
def contextOf (id : CurveId) (c : CurvePreset) : CurveContext w :=
  { id := id, ca := toWord c.a, cb := toWord c.b, cp := toWord c.p, cn := toWord c.n, cgx := toWord c.gx,
    cgy := toWord c.gy }

/-- CSEL (R216) with the presets as an argument (93_implementation_defined.md I15). -/
def execCselOf (presets : CurvePresets) (imm : BitVec 16) (s : State.Of w nreg ncmd) : Result w nreg ncmd :=
  finish s do
    checkLegal (curveIdOk imm)
    .ok { s with curve := contextOf (presetOf presets imm).1 (presetOf presets imm).2 }

/-- CSEL (R216) with the presets of R212. -/
def execCsel (imm : BitVec 16) (s : State.Of w nreg ncmd) : Result w nreg ncmd :=
  execCselOf Config.curvePresets imm s

/-- E_BAD_CURVE for a coefficient not below P (R217). -/
def checkCoefficients (a b p : Nat) : Except ErrorCode Unit :=
  if p ≤ a ∨ p ≤ b then .error .badCurve else .ok ()

/-- CLD (R217). CN, CGX and CGY become inaccessible; the model leaves their stored bits (assumption log 7). -/
def execCld (ra rb rm : Reg nreg) (s : State.Of w nreg ncmd) : Result w nreg ncmd :=
  finish s do
    checkModulus (s.val rm)
    checkCoefficients (s.val ra) (s.val rb) (s.val rm)
    .ok { s with curve := { s.curve with id := .custom, ca := s.reg ra, cb := s.reg rb, cp := s.reg rm } }

/-- The element of the curve context a selector names (R125, R218). -/
def curveElement (c : CurveContext w) (sel : BitVec 3) : Word w :=
  match sel.toNat with
  | 0 => c.ca
  | 1 => c.cb
  | 2 => c.cp
  | 3 => c.cn
  | 4 => c.cgx
  | _ => c.cgy

/-- CGET's check on the selector: N, Gx and Gy need a preset (R218). -/
def checkElement (s : State.Of w nreg ncmd) (sel : BitVec 3) : Except ErrorCode Unit :=
  if 3 ≤ sel.toNat then checkGenerator s else .ok ()

/-- CGET (R218). -/
def execCget (rd : Reg nreg) (sel : BitVec 3) (s : State.Of w nreg ncmd) : Result w nreg ncmd :=
  finish s do
    checkLegal (selectorOk sel)
    checkCurve s
    checkElement s sel
    .ok (s.setReg rd (curveElement s.curve sel))

/-! Point commands. -/

/-- ECADD (R221). -/
def execEcadd (pd pa pb : Reg nreg) (s : State.Of w nreg ncmd) : Result w nreg ncmd :=
  finish s do
    checkLegal (evenReg pd && evenReg pa && evenReg pb)
    checkCurve s
    let p1 ← readPoint s pa
    let p2 ← readPoint s pb
    let r ← ecAdd s.prime s.coeffA p1 p2
    .ok (writePoint s pd r)

/-- ECDBL (R222). -/
def execEcdbl (pd pa : Reg nreg) (s : State.Of w nreg ncmd) : Result w nreg ncmd :=
  finish s do
    checkLegal (evenReg pd && evenReg pa)
    checkCurve s
    let p1 ← readPoint s pa
    let r ← ecAdd s.prime s.coeffA p1 p1
    .ok (writePoint s pd r)

/-- ECNEG (R223). -/
def execEcneg (pd pa : Reg nreg) (s : State.Of w nreg ncmd) : Result w nreg ncmd :=
  finish s do
    checkLegal (evenReg pd && evenReg pa)
    checkCurve s
    let p1 ← readPoint s pa
    .ok (writePoint s pd (ecNeg s.prime p1))

/-- ECMUL (R226). -/
def execEcmul (pd pa rb : Reg nreg) (neg : Bool) (s : State.Of w nreg ncmd) : Result w nreg ncmd :=
  finish s do
    checkLegal (evenReg pd && evenReg pa)
    checkCurve s
    let p1 ← readPoint s pa
    let r ← ecMul s.prime s.coeffA p1 (s.val rb) neg
    .ok (writePoint s pd r)

/-- The generator of the loaded context (R45, R227). -/
def State.Of.generator (s : State.Of w nreg ncmd) : Point := .affine s.curve.cgx.toNat s.curve.cgy.toNat

/-- ECMULG (R227). -/
def execEcmulg (pd rb : Reg nreg) (neg : Bool) (s : State.Of w nreg ncmd) : Result w nreg ncmd :=
  finish s do
    checkLegal (evenReg pd)
    checkCurve s
    checkGenerator s
    let r ← ecMul s.prime s.coeffA s.generator (s.val rb) neg
    .ok (writePoint s pd r)

end Sys2Proof.Machine
end

