-- ==== Sys2Proof/Machine/Dispatch.lean ====
section
/-! DEFINITION. One arm per command of KCC (30_encoding.md rule R127), each one call of its meaning. -/

namespace Sys2Proof.Machine

def exec (i : Instr) (s : State) : Host.Outcome State Fault Refusal :=
  match i with
  | .nop => Sys2Proof.Machine.execNop s
  | .halt => Sys2Proof.Machine.execHalt s
  | .mov rd ra => Sys2Proof.Machine.execMov rd ra s
  | .ldi rd imm => Sys2Proof.Machine.execLdi rd imm s
  | .modmul rd ra rb rm => Sys2Proof.Machine.execModmul rd ra rb rm s
  | .modexp rd ra rb rm => Sys2Proof.Machine.execModexp rd ra rb rm s
  | .modinv rd ra rm => Sys2Proof.Machine.execModinv rd ra rm s
  | .modsqrt rd ra rm => Sys2Proof.Machine.execModsqrt rd ra rm s
  | .csel imm => Sys2Proof.Machine.execCsel imm s
  | .cld ra rb rm => Sys2Proof.Machine.execCld ra rb rm s
  | .cget rd sel => Sys2Proof.Machine.execCget rd sel s
  | .ecadd pd pa pb => Sys2Proof.Machine.execEcadd pd pa pb s
  | .ecdbl pd pa => Sys2Proof.Machine.execEcdbl pd pa s
  | .ecneg pd pa => Sys2Proof.Machine.execEcneg pd pa s
  | .ecmul pd pa rb neg => Sys2Proof.Machine.execEcmul pd pa rb neg s
  | .ecmulg pd rb neg => Sys2Proof.Machine.execEcmulg pd rb neg s
  | .mkey ra rb => Sys2Proof.Machine.execMkey ra rb s
  | .menc rd ra => Sys2Proof.Machine.execMenc rd ra s
  | .mdec rd ra => Sys2Proof.Machine.execMdec rd ra s

end Sys2Proof.Machine
end

