-- ==== Sys2Proof/Machine/Configured.lean ====
section
/-! DEFINITION. The machine of any configuration (00_scope.md rule R14, 10_state.md rule R30): the meanings are written
for every W, NREG and NCMD, every table of curve presets and every set of cipher tables, and this file gathers them. Only
the address map and the width of a command's register fields belong to the values of R12, so a configuration of other
sizes says itself which of its registers a field names. `exec` and `step` are those of `Config.standard`
(Laws/Configured.lean). -/

namespace Sys2Proof.Machine

variable {w nreg ncmd : Nat}

/-- The effect of a command in the configuration `c`. -/
def execAt (c : Configuration nreg) (i : Instr) (s : State.Of w nreg ncmd) : Result w nreg ncmd :=
  match i with
  | .nop => execNop s
  | .halt => execHalt s
  | .mov rd ra => execMov (c.regOf rd) (c.regOf ra) s
  | .ldi rd imm => execLdi (c.regOf rd) imm s
  | .modmul rd ra rb rm => execModmul (c.regOf rd) (c.regOf ra) (c.regOf rb) (c.regOf rm) s
  | .modexp rd ra rb rm => execModexp (c.regOf rd) (c.regOf ra) (c.regOf rb) (c.regOf rm) s
  | .modinv rd ra rm => execModinv (c.regOf rd) (c.regOf ra) (c.regOf rm) s
  | .modsqrt rd ra rm => execModsqrt (c.regOf rd) (c.regOf ra) (c.regOf rm) s
  | .csel imm => execCselOf c.presets imm s
  | .cld ra rb rm => execCld (c.regOf ra) (c.regOf rb) (c.regOf rm) s
  | .cget rd sel => execCget (c.regOf rd) sel s
  | .ecadd pd pa pb => execEcadd (c.regOf pd) (c.regOf pa) (c.regOf pb) s
  | .ecdbl pd pa => execEcdbl (c.regOf pd) (c.regOf pa) s
  | .ecneg pd pa => execEcneg (c.regOf pd) (c.regOf pa) s
  | .ecmul pd pa rb neg => execEcmul (c.regOf pd) (c.regOf pa) (c.regOf rb) neg s
  | .ecmulg pd rb neg => execEcmulg (c.regOf pd) (c.regOf rb) neg s
  | .mkey ra rb => execMkeyOf c.cipher (c.regOf ra) (c.regOf rb) s
  | .menc rd ra => execMencOf c.cipher (c.regOf rd) (c.regOf ra) s
  | .mdec rd ra => execMdecOf c.cipher (c.regOf rd) (c.regOf ra) s

/-- One turn of the sequencer in such a configuration (R157). -/
def sequencerTurnAt (c : Configuration nreg) (s : State.Of w nreg ncmd) : Result w nreg ncmd := sequencerTurn (execAt c) s

/-- One step of the whole machine, with the host's port, for other presets and tables at the sizes of R12, to which the
address map belongs (R82). -/
def stepAt (c : Configuration 16) (s : State) : Result := nextTurn (execAt c) s

end Sys2Proof.Machine
end

