-- ==== Sys2Proof/Safety.lean ====
section
/-! DEFINITION. The terms claims are stated in: what a committed command, a trap and a run leave of a state (the
frames of 40_sequencer.md rule R157 and 60_exceptions.md rule R304), and the invariants of the machine. -/

namespace Sys2Proof.Machine

variable {w nreg ncmd : Nat}

/-! The curve as an equation. -/

/-- The curve equation y² ≡ x³ + A·x + B modulo p (R210), as a proposition about integers; INF is on every curve. -/
def OnCurve (p a b : Nat) : Point → Prop
  | .inf => True
  | .affine x y => (y * y) % p = (x * x * x + a * x + b) % p

/-- A point whose coordinates are residues below p, or INF (R210). -/
def Reduced (p : Nat) : Point → Prop
  | .inf => True
  | .affine x y => x < p ∧ y < p

/-! Frames. -/

/-- Every byte of command memory reads as before. -/
def SameMemory (s t : State.Of w nreg ncmd) : Prop := ∀ a, memRead t.mem a = memRead s.mem a

/-- Nothing the host alone or the end of a run changes has changed: command memory, the status bits, the error report,
the interrupt registers and the model's own fields. -/
structure SameHostSide (s t : State.Of w nreg ncmd) : Prop where
  mem : SameMemory s t
  busy : t.busy = s.busy
  done : t.done = s.done
  err : t.err = s.err
  errcode : t.errcode = s.errcode
  errpc : t.errpc = s.errpc
  irqEn : t.irqEn = s.irqEn
  irqPend : t.irqPend = s.irqPend
  hosterr : t.hosterr = s.hosterr
  agenda : t.agenda = s.agenda
  readData : t.readData = s.readData
  reportRead : t.reportRead = s.reportRead
  draws : t.draws = s.draws

/-- A command other than HALT has committed (R154, R155): the pointer and the counter have advanced and the host's
side is as before. -/
structure Commits (s t : State.Of w nreg ncmd) : Prop extends SameHostSide s t where
  cpc : t.cpc = s.cpc + 1
  retired : t.retired = s.retired + 1

/-- The flag, the curve context and the key state are as before. -/
structure SameUnits (s t : State.Of w nreg ncmd) : Prop where
  qr : t.qr = s.qr
  curve : t.curve = s.curve
  key : t.key = s.key

/-- Every operand register is as before. -/
def SameRegs (s t : State.Of w nreg ncmd) : Prop := ∀ r, t.reg r = s.reg r

/-- Every operand register but `rd` is as before. -/
def SameRegsBut (rd : Reg nreg) (s t : State.Of w nreg ncmd) : Prop := ∀ r, r ≠ rd → t.reg r = s.reg r

/-- Every operand register outside the pair that begins at `pd` is as before. -/
def SameRegsButPair (pd : Reg nreg) (s t : State.Of w nreg ncmd) : Prop :=
  ∀ r, r ≠ pd → r ≠ pairSnd pd → t.reg r = s.reg r

/-- The register pair that begins at `r` holds a point (R213, R214). -/
def HoldsPoint (s : State.Of w nreg ncmd) (r : Reg nreg) : Point → Prop
  | .inf => s.reg r = Config.ones ∧ s.reg (pairSnd r) = Config.ones
  | .affine x y => s.val r = x ∧ s.val (pairSnd r) = y

/-- A trap with code `e` was taken from `s` (R304): the report is written, the run has ended, and nothing else has
changed. -/
structure Traps (e : ErrorCode) (s t : State.Of w nreg ncmd) : Prop where
  errcode : t.errcode = e
  errpc : t.errpc = s.cpc
  err : t.err = true
  busy : t.busy = false
  pendErr : t.irqPend.err = true
  pendDone : t.irqPend.done = s.irqPend.done
  done : t.done = s.done
  cpc : t.cpc = s.cpc
  retired : t.retired = s.retired
  regs : SameRegs s t
  mem : SameMemory s t
  units : SameUnits s t
  irqEn : t.irqEn = s.irqEn
  hosterr : t.hosterr = s.hosterr
  agenda : t.agenda = s.agenda
  readData : t.readData = s.readData
  reportRead : t.reportRead = .none
  draws : t.draws = s.draws

/-- A command has committed that wrote `v` to `rd` and nothing else but the pointer and the counter. -/
structure WritesReg (rd : Reg nreg) (v : Word w) (s t : State.Of w nreg ncmd) :
    Prop extends Commits s t, SameUnits s t where
  result : t.reg rd = v
  others : SameRegsBut rd s t

/-- A command has committed that wrote the point `p` to the pair at `pd` and nothing else but the pointer and the
counter. -/
structure WritesPoint (pd : Reg nreg) (p : Point) (s t : State.Of w nreg ncmd) :
    Prop extends Commits s t, SameUnits s t where
  result : HoldsPoint t pd p
  others : SameRegsButPair pd s t

/-- A command's outcome is one of its two ends: it commits, and the pointer and the counter advance by one and, but for
HALT's end of the run, the host's side is as before (R154, R155); or it takes a trap with a command's code, and nothing
of it is written (R304, R305). -/
def CommitsOrTraps (i : Instr) (s : State.Of w nreg ncmd) (r : Result w nreg ncmd) : Prop :=
  ∃ t, r = .next t ∧
    ((t.cpc = s.cpc + 1 ∧ t.retired = s.retired + 1 ∧ (i ≠ .halt → Commits s t)) ∨
      ∃ e, e ≠ .none ∧ e ≠ .pcRange ∧ e ≠ .aborted ∧ Traps e s t)

/-- The outcome is the commit of a CSEL that loads the preset `c` as the context `id`, all seven elements with their
exact values, and changes nothing else but the pointer and the counter (R212, R216). -/
def LoadsPreset (id : CurveId) (c : CurvePreset) (s : State.Of w nreg ncmd) (r : Result w nreg ncmd) : Prop :=
  ∃ t, r = .next t ∧ t.curve.id = id ∧ t.curve.ca.toNat = c.a ∧ t.curve.cb.toNat = c.b ∧ t.curve.cp.toNat = c.p ∧
    t.curve.cn.toNat = c.n ∧ t.curve.cgx.toNat = c.gx ∧ t.curve.cgy.toNat = c.gy ∧
    Commits s t ∧ SameRegs s t ∧ t.qr = s.qr ∧ t.key = s.key

/-- The command takes the trap with code `e` (R302, R304). -/
def Raises (e : ErrorCode) (i : Instr) (s : State) : Prop := ∃ t, exec i s = .next t ∧ Traps e s t

/-- Two states that agree in everything but HOSTERR. -/
def SameButHostErr (s t : State.Of w nreg ncmd) : Prop := t = { s with hosterr := t.hosterr }

/-- Two states that agree in everything but the model's own record of a host read: what it returned, which registers of
the error report have been read, and the free values drawn. -/
def SameButReadData (s t : State.Of w nreg ncmd) : Prop :=
  t = { s with readData := t.readData, reportRead := t.reportRead, draws := t.draws }

/-! Operands. -/

/-- A modulus the arithmetic commands accept: odd and at least 3 (R180). -/
def GoodModulus (m : Nat) : Prop := 3 ≤ m ∧ m % 2 = 1

/-- The pair at `r` holds the point `p`, and `p` is an operand the point commands accept: INF, or both coordinates
below P (R214). -/
def ReadsPoint (s : State.Of w nreg ncmd) (r : Reg nreg) (p : Point) : Prop := HoldsPoint s r p ∧ Reduced s.prime p

/-- The pair at `r` is no point: it is not INF and a coordinate is not below P (R214). -/
def BadPair (s : State.Of w nreg ncmd) (r : Reg nreg) : Prop :=
  ¬(s.reg r = Config.ones ∧ s.reg (pairSnd r) = Config.ones) ∧ (s.prime ≤ s.val r ∨ s.prime ≤ s.val (pairSnd r))

/-! MeongCipher encryption, written out on the tables (R264 to R268). -/

/-- Bit `j` of a block as 43_meongcipher.md rule R265 numbers it: bit 7 − (j mod 8) of byte j div 8. -/
def bitOfBytes (s : Block) (j : Fin 128) : Bool := s[j.val / 8].getLsbD (7 - j.val % 8)

/-- The same bit of the block in a register's low 128 bits, byte 0 the least significant (R261). -/
def bitOfRegister (v : Word w) (j : Fin 128) : Bool := v.getLsbD (8 * (j.val / 8) + (7 - j.val % 8))

/-- Round `k` of R268 takes the block `s` to the block `s'`: SUB and then BYPERM, the two sequential exclusive ors, and
the halves swapped. -/
def RoundTakes (t : CipherTables) (k s s' : Block) : Prop :=
  ∃ l r l' r' : Half, ∀ i : Fin 8,
    l[i] = t.sbox s[t.perm3 ⟨i.val, by omega⟩] ∧ r[i] = t.sbox s[t.perm3 ⟨i.val + 8, by omega⟩] ∧
    l'[i] = l[i] ^^^ (t.mix r k)[i] ∧ r'[i] = r[i] ^^^ (t.mix l' k)[i] ∧
    s'[i.val] = r'[i] ∧ s'[i.val + 8] = l'[i]

/-- The block in `x` encrypts to the block in `y` under the subkeys (R268): PERM2 gathers the bits of `x`, ten rounds
run, round r with RK[r], and PERM1 gathers the bits of `y`. -/
def EncryptsTo (t : CipherTables) (rk : Vector Block 10) (x y : Word w) : Prop :=
  ∃ s : Fin 11 → Block,
    (∀ j, bitOfBytes (s 0) j = bitOfRegister x (t.perm2 j)) ∧
    (∀ r : Fin 10, RoundTakes t rk[r] (s r.castSucc) (s r.succ)) ∧
    (∀ j, bitOfRegister y j = bitOfBytes (s 10) (t.perm1 j))

/-! What the turns still to come do. -/

/-- The next turn is a reset. -/
def nextIsReset (s : State.Of w nreg ncmd) : Prop := ∃ o rest, s.agenda = .reset o :: rest

/-- The next turn is the sequencer's. -/
def nextIsSequencer (s : State.Of w nreg ncmd) : Prop := s.agenda = [] ∨ ∃ rest, s.agenda = .sequencer :: rest

/-- The state in which the next turn is taken: its entry has left the agenda. -/
def takenTurn (s : State.Of w nreg ncmd) : State.Of w nreg ncmd := { s with agenda := s.agenda.tail }

/-! Invariants. -/

/-- Command memory is in canonical form, and every listed byte lies in the command-memory window (R81, R83). -/
def MemoryOk (s : State.Of w nreg ncmd) : Prop :=
  s.mem.wf ∧ ∀ c ∈ s.mem, Config.cmdBase ≤ c.1 ∧ c.1 < Config.cmdBase + 4 * ncmd

/-- The status bits and the error report agree: DONE and ERR are never both 1 (R36), while a run is in progress neither
is (R151), and the report is empty unless the last run failed (R37, R38, R151). -/
structure RunOk (s : State.Of w nreg ncmd) : Prop where
  exclusive : ¬(s.done = true ∧ s.err = true)
  running : s.busy = true → s.done = false ∧ s.err = false
  noReport : s.err = false → s.errcode = .none ∧ s.errpc = 0
  report : s.err = true → s.errcode ≠ .none

/-- A loaded curve context is one that CSEL or CLD can have written (R45, R212, R217). -/
def ContextOk (c : CurveContext w) : Prop :=
  match c.id with
  | .none => True
  | .secp256r1 => c = contextOf .secp256r1 Config.secp256r1
  | .brainpoolP512r1 => c = contextOf .brainpoolP512r1 Config.brainpoolP512r1
  | .custom => 3 ≤ c.cp.toNat ∧ c.cp.toNat % 2 = 1 ∧ c.ca.toNat < c.cp.toNat ∧ c.cb.toNat < c.cp.toNat

/-- A loaded key state is the key schedule of some master key (R47, R262). -/
def KeyOk (k : KeyState) : Prop := k.keyv = true → ∃ k0 : Block, k.rk = keySchedule Config.cipher k0

/-- Every command word from index `k` to the end of command memory has been written since reset. -/
def WordsWrittenFrom (s : State.Of w nreg ncmd) (k : Nat) : Prop :=
  ∀ j, k ≤ j → j < ncmd → ∃ w, readCmd s.mem j = some w

end Sys2Proof.Machine
end

