-- ==== Sys2Proof/Certificates/Slice0/Obligations.lean ====
section
/-! DEFINITION. The statements about KONNEK-CORE, for the provers. Each docstring names the rule of spec/ it
formalises. A statement about an instruction's result says that `exec` answers a next state, that state's new values,
and its frame (`Commits`, `SameUnits`, `SameRegsBut`; `Traps` for an error). -/

open Sys2Proof Sys2Proof.Machine

/-! Encoding. -/

/-- Words the spec writes out decode to their commands, one or more for every family (30_encoding.md rule R133;
95_test_vectors.md §2.1), and the all-zero word is ILLEGAL. -/
def Obligations.DecodeOfSpecWords : Prop :=
  decode 0x04000000 = .ok .nop ∧ decode 0x1000FFFF = .ok (.ldi 0 0xFFFF) ∧
  decode 0x20800400 = .ok (.modmul 2 0 0 1) ∧ decode 0x2C800400 = .ok (.modsqrt 2 0 1) ∧
  decode 0x40000001 = .ok (.csel 1) ∧ decode 0x44004800 = .ok (.cld 0 1 2) ∧ decode 0x49000003 = .ok (.cget 4 3) ∧
  decode 0x4D008000 = .ok (.ecadd 4 0 2) ∧ decode 0x59008001 = .ok (.ecmul 4 0 2 true) ∧
  decode 0x80004000 = .ok (.mkey 0 1) ∧ decode 0x88C80000 = .ok (.mdec 3 2) ∧
  decode 0 = .error .unassignedOp

/-- The decoder gives back every command that has an encoding, with every operand (30_encoding.md rules R127, R128). -/
def Obligations.DecodeInvertsEncode : Prop := ∀ i : Instr, i.wf = true → decode (encode i) = .ok i

/-- A word that decodes is the one word of its command: no two words have one meaning, and what decodes is well-formed
(30_encoding.md rule R130: every word that is not ILLEGAL is exactly one command). -/
def Obligations.EncodeInvertsDecode : Prop := ∀ (w : CmdWord) (i : Instr), decode w = .ok i → encode i = w ∧ i.wf = true

/-- The ILLEGAL words of 30_encoding.md rule R129, one clause for each of its cases: an OP of no row (0 among them), a
non-zero must-be-zero field of the row, an odd point field, CSEL with another id than 1 and 2, CGET with selector 6
or 7. -/
def Obligations.IllegalEncodingsRejected : Prop :=
  ∀ w : CmdWord,
    ((∀ row ∈ opRows, row.op ≠ opField w) → decode w = .error .unassignedOp) ∧
    (opField w = 0 → decode w = .error .unassignedOp) ∧
    (∀ row ∈ opRows, row.op = opField w → w &&& row.mask ≠ row.pattern → decode w = .error .nonZeroMbz) ∧
    (∀ row ∈ opRows, row.op = opField w → w &&& row.mask = row.pattern → oddPointField row w = true →
      decode w = .error .oddPoint) ∧
    (opField w = 0x10 → immField w ≠ 1 → immField w ≠ 2 → ∃ e, decode w = .error e) ∧
    (opField w = 0x12 → selField w = 6 ∨ selField w = 7 → ∃ e, decode w = .error e)

/-- A command outside its row's constraints takes the E_ILLEGAL trap before it reads an operand (30_encoding.md rules
R128, R129). Decoding gives none (EncodeInvertsDecode): that `exec` traps on one is the model's choice, assumption log
9. -/
def Obligations.IllFormedCommandTraps : Prop := ∀ (i : Instr) (s : State), i.wf = false → Raises .illegal i s

/-! The sequencer. -/

/-- What a step does on a turn of each agent. A step runs the decoded command: on the sequencer's turn of a run, with
the word at CPC decoding to `i`, the step is `exec i` of the state whose agenda entry is taken, and `exec` itself advances
the pointer (40_sequencer.md rules R152, R157). On a host's turn, which the agenda names (assumption log 4), the step is
the port's service of that transaction in the same state (20_memory.md rule R80; 70_reset_and_hazards.md rule R355), but
for a START that would lose an unread error report, which StepStopsInTwoWays states. A reset's turn is
ResetFromAnyState's. -/
def Obligations.StepRunsDecodedCommand : Prop :=
  (∀ (s : State) (w : CmdWord) (i : Instr), nextIsSequencer s → s.busy = true → s.cpc.toNat < 1024 →
    readCmd s.mem s.cpc.toNat = some w → decode w = .ok i → step s = exec i (takenTurn s)) ∧
  (∀ (s : State) (a : Access) (rest : List Turn), s.agenda = .bus a :: rest → losesReport (takenTurn s) a = false →
    step s = .next (serve (takenTurn s) a))

/-- The sequencer's turns that run no command. In a run: E_PC_RANGE at a pointer at or past NCMD (40_sequencer.md rule
R153), and E_ILLEGAL at a word that decodes to ILLEGAL (30_encoding.md rule R128), fetch checked first (60_exceptions.md
rule R302). Idle: no step, so nothing changes but the agenda (40_sequencer.md rule R150). -/
def Obligations.FetchAndDecodeTraps : Prop :=
  ∀ s : State, nextIsSequencer s →
    (s.busy = true → 1024 ≤ s.cpc.toNat → ∃ t, step s = .next t ∧ Traps .pcRange (takenTurn s) t) ∧
    (∀ w e, s.busy = true → s.cpc.toNat < 1024 → readCmd s.mem s.cpc.toNat = some w → decode w = .error e →
      ∃ t, step s = .next t ∧ Traps .illegal (takenTurn s) t) ∧
    (s.busy = false → step s = .next (takenTurn s))

/-- Every command ends in exactly one of two ways (40_sequencer.md rules R154, R155, R157; 60_exceptions.md rules R303
and R305): it commits, and CPC and RETIRED advance by one and it leaves the host's side (but for HALT's end of the run);
or it takes a trap with a code other than E_NONE, and then nothing of it is written. The same holds of the machine of
every W, NREG and NCMD, with any curve presets and any cipher tables, whichever of its registers the fields name, and the
machine of R12 is one of those (00_scope.md rule R14; 10_state.md rule R30). -/
def Obligations.CommandCommitsOrTraps : Prop :=
  (∀ (i : Instr) (s : State), CommitsOrTraps i s (exec i s) ∧ exec i s = execAt Config.standard i s) ∧
  ∀ (w nreg ncmd : Nat) (c : Configuration nreg) (i : Instr) (s : State.Of w nreg ncmd),
    CommitsOrTraps i s (execAt c i s)

/-- The QR flag (10_state.md rule R48): a MODSQRT that commits writes it; no other command, no START, no trap and no
abort does; no command reads it, so changing it changes nothing else of a command's outcome; STATUS bit 3 shows it; it
is 0 after reset. -/
def Obligations.QrFlagRule : Prop :=
  (∀ (rd ra rm : Reg) (s t : State), exec (.modsqrt rd ra rm) s = .next t → t.cpc = s.cpc + 1 →
    t.qr = (t.val rd * t.val rd % s.val rm == s.val ra % s.val rm)) ∧
  (∀ (i : Instr) (s t : State), (∀ rd ra rm, i ≠ .modsqrt rd ra rm) → exec i s = .next t → t.qr = s.qr) ∧
  (∀ (e : ErrorCode) (s : State), (trap e s).qr = s.qr) ∧
  (∀ s : State, (start s).qr = s.qr ∧ (abort s).qr = s.qr) ∧
  (∀ (i : Instr) (s t : State) (b : Bool), exec i s = .next t →
    ∃ q, exec i { s with qr := b } = .next { t with qr := q }) ∧
  (∀ s : State, (statusWord s).getLsbD 3 = s.qr) ∧ State.reset.qr = false

/-- What a command may write, over all commands: no command writes command memory, moves the pointer other than by one
or touches what only the host sets (10_state.md rule R43; 20_memory.md rules R94, R102; 40_sequencer.md rules R154,
R163); only CSEL and CLD write the curve context, and only MKEY the key state (10_state.md rules R45, R47). -/
def Obligations.OnlyOwnersWriteState : Prop :=
  ∀ (i : Instr) (s t : State), exec i s = .next t →
    SameMemory s t ∧ (t.cpc = s.cpc + 1 ∨ t.cpc = s.cpc) ∧ t.irqEn = s.irqEn ∧ t.hosterr = s.hosterr ∧
    t.agenda = s.agenda ∧ t.readData = s.readData ∧ t.draws = s.draws ∧
    (t.reportRead = s.reportRead ∨ t.err = true ∧ t.reportRead = .none) ∧
    ((∀ imm, i ≠ .csel imm) → (∀ ra rb rm, i ≠ .cld ra rb rm) → t.curve = s.curve) ∧
    ((∀ ra rb, i ≠ .mkey ra rb) → t.key = s.key)

/-- KEYV and CURVE_ID return to 0 only through a reset: a command can only replace a context or key
(70_reset_and_hazards.md rule R341), so over any step but a reset a loaded key stays loaded and a selected curve stays
selected. -/
def Obligations.OnlyResetUnloads : Prop :=
  ∀ s t : State, step s = .next t → ¬nextIsReset s →
    (s.key.keyv = true → t.key.keyv = true) ∧ (s.curve.id ≠ .none → t.curve.id ≠ .none)

/-- The step that ends a run, other than a reset: BUSY becomes 0, exactly one of DONE and ERR becomes 1 and its
IRQ_PEND bit is set, in one step (20_memory.md rule R98; 40_sequencer.md rule R156; 60_exceptions.md rule R304). The
premise RunOk is an invariant (RunFlagsKept). -/
def Obligations.RunEndSetsOneFlag : Prop :=
  ∀ s t : State, RunOk s → ¬nextIsReset s → s.busy = true → step s = .next t → t.busy = false →
    (t.done = true ∧ t.err = false ∧ t.irqPend.done = true) ∨ (t.err = true ∧ t.done = false ∧ t.irqPend.err = true)

/-- A run from index k takes at most NCMD − k + 1 steps (70_reset_and_hazards.md rule R357): with no other agent's turn
between and every word it can fetch written, some number of steps within the bound ends it. -/
def Obligations.RunEndsWithinBound : Prop :=
  ∀ s : State, s.busy = true → s.agenda = [] → WordsWrittenFrom s s.cpc.toNat →
    ∃ n t, n ≤ 1024 - s.cpc.toNat + 1 ∧ Sys2Proof.core.run n s = .next t ∧ t.busy = false

/-- The model stops in two ways only, and exactly then: at the fetch of a command word not written since reset
(93_implementation_defined.md I2; assumption log 6), and at the host action that breaks duty H-12, a START of the idle
machine after a run that failed with a register of the error report unread (60_exceptions.md rule R322;
93_implementation_defined.md I10; assumption logs 12 and 22). -/
def Obligations.StepStopsInTwoWays : Prop :=
  ∀ s : State, (∀ f, step s = .fault f ↔
      (nextIsSequencer s ∧ s.busy = true ∧ s.cpc.toNat < 1024 ∧ readCmd s.mem s.cpc.toNat = none ∧
        f = .unwrittenCommand s.cpc) ∨
      ((∃ v rest, s.agenda = .bus (.write 0x0008 4 v) :: rest ∧ v.getLsbD 0 = true ∧ v.getLsbD 1 = false) ∧
        s.busy = false ∧ s.err = true ∧ (s.reportRead.code = false ∨ s.reportRead.pc = false) ∧ f = .reportLost)) ∧
    (∀ r, step s ≠ .refused r)

/-- NOP, MOV and LDI (40_sequencer.md rules R158, R160, R161): NOP only commits; MOV copies the whole register; LDI
loads the immediate zero-extended. -/
def Obligations.NopMovLdiResults : Prop :=
  ∀ s : State,
    (∃ t, exec .nop s = .next t ∧ Commits s t ∧ SameRegs s t ∧ SameUnits s t) ∧
    (∀ rd ra, ∃ t, exec (.mov rd ra) s = .next t ∧ WritesReg rd (s.reg ra) s t) ∧
    (∀ rd imm, ∃ t, exec (.ldi rd imm) s = .next t ∧ WritesReg rd (BitVec.ofNat 2048 imm.toNat) s t ∧
      t.val rd = imm.toNat)

/-- HALT (40_sequencer.md rules R156, R159): it commits and in the same step ends the run. In a run ERRCODE and ERRPC
stay 0, under the invariant RunOk. -/
def Obligations.HaltEndsRun : Prop :=
  ∀ s : State, ∃ t, exec .halt s = .next t ∧ t.cpc = s.cpc + 1 ∧ t.retired = s.retired + 1 ∧
    t.busy = false ∧ t.done = true ∧ t.irqPend.done = true ∧ t.irqPend.err = s.irqPend.err ∧
    SameRegs s t ∧ SameMemory s t ∧ SameUnits s t ∧ t.err = s.err ∧ t.errcode = s.errcode ∧ t.errpc = s.errpc ∧
    t.irqEn = s.irqEn ∧ t.hosterr = s.hosterr ∧ t.agenda = s.agenda ∧ t.readData = s.readData ∧
    t.reportRead = s.reportRead ∧ t.draws = s.draws ∧
    (RunOk s → s.busy = true → t.errcode = .none ∧ t.errpc = 0)

/-! The modular unit. -/

/-- Every command of the unit, and CLD, takes E_BAD_MODULUS first for a modulus below 3 or even (41_modular.md rule
R180; 42_elliptic_curve.md rule R217). -/
def Obligations.BadModulusTraps : Prop :=
  ∀ (rd ra rb rm : Reg) (s : State), ¬GoodModulus (s.val rm) →
    Raises .badModulus (.modmul rd ra rb rm) s ∧ Raises .badModulus (.modexp rd ra rb rm) s ∧
    Raises .badModulus (.modinv rd ra rm) s ∧ Raises .badModulus (.modsqrt rd ra rm) s ∧
    Raises .badModulus (.cld ra rb rm) s

/-- MODMUL (41_modular.md rule R182): the exact product, reduced. -/
def Obligations.ModmulResult : Prop :=
  ∀ (rd ra rb rm : Reg) (s : State), GoodModulus (s.val rm) → ∃ t, exec (.modmul rd ra rb rm) s = .next t ∧
    WritesReg rd (toWord (s.val ra * s.val rb % s.val rm)) s t ∧ t.val rd = s.val ra * s.val rb % s.val rm

/-- MODEXP (41_modular.md rule R183): the result is a^b mod m for every input, with 0^0 = 1. -/
def Obligations.ModexpIsPower : Prop :=
  ∀ (rd ra rb rm : Reg) (s : State), GoodModulus (s.val rm) → ∃ t, exec (.modexp rd ra rb rm) s = .next t ∧
    WritesReg rd (t.reg rd) s t ∧ t.val rd = s.val ra ^ s.val rb % s.val rm

/-- MODINV (41_modular.md rule R185): the one value in [1, m) whose product with a is 1 modulo m. -/
def Obligations.ModinvIsInverse : Prop :=
  ∀ (rd ra rm : Reg) (s : State), GoodModulus (s.val rm) → Nat.gcd (s.val ra % s.val rm) (s.val rm) = 1 →
    ∃ t, exec (.modinv rd ra rm) s = .next t ∧ WritesReg rd (t.reg rd) s t ∧
      1 ≤ t.val rd ∧ t.val rd < s.val rm ∧ s.val ra * t.val rd % s.val rm = 1 ∧
      ∀ v, v < s.val rm → s.val ra * v % s.val rm = 1 → v = t.val rd

/-- A value with no inverse modulo m makes MODINV take E_NOT_INVERTIBLE and write nothing (41_modular.md rule R186). -/
def Obligations.ModinvNotInvertibleTraps : Prop :=
  ∀ (rd ra rm : Reg) (s : State), GoodModulus (s.val rm) → Nat.gcd (s.val ra % s.val rm) (s.val rm) ≠ 1 →
    Raises .notInvertible (.modinv rd ra rm) s

/-- MODSQRT (41_modular.md rules R187, R188): a^((p+1)/4) mod p and the QR flag; E_SQRT_MODULUS for a good modulus that
is 1 modulo 4. -/
def Obligations.ModsqrtResult : Prop :=
  ∀ (rd ra rm : Reg) (s : State), GoodModulus (s.val rm) →
    (s.val rm % 4 = 3 → ∃ t, exec (.modsqrt rd ra rm) s = .next t ∧
      t.val rd = s.val ra ^ ((s.val rm + 1) / 4) % s.val rm ∧
      (t.qr = true ↔ t.val rd ^ 2 % s.val rm = s.val ra % s.val rm) ∧
      SameRegsBut rd s t ∧ Commits s t ∧ t.curve = s.curve ∧ t.key = s.key) ∧
    (s.val rm % 4 ≠ 3 → Raises .sqrtModulus (.modsqrt rd ra rm) s)

/-- For a prime modulus 3 modulo 4 the QR flag says whether the input is a square or zero, and then the result is a
root of it (41_modular.md rules R188, R189: general knowledge the spec marks as such). -/
def Obligations.QrDecidesSquares : Prop :=
  ∀ (rd ra rm : Reg) (s : State), Nat.Prime (s.val rm) → s.val rm % 4 = 3 →
    ∃ t, exec (.modsqrt rd ra rm) s = .next t ∧
      (t.qr = true ↔ ∃ y, y * y % s.val rm = s.val ra % s.val rm) ∧
      ((∃ y, y * y % s.val rm = s.val ra % s.val rm) → t.val rd * t.val rd % s.val rm = s.val ra % s.val rm)

/-! The curve unit: context. -/

/-- CSEL (42_elliptic_curve.md rules R212, R216): all seven elements of the context are the preset's, with the exact
values, and nothing else but the pointer and the counter changes. So it is in every configuration, with the presets that
configuration has (10_state.md rule R30; 93_implementation_defined.md I15), where they fit its registers; and those of
R212 fit the registers of every W the spec allows (00_scope.md rule R14). -/
def Obligations.CselLoadsPreset : Prop :=
  (∀ s : State, LoadsPreset .secp256r1 Config.secp256r1 s (exec (.csel 1) s) ∧
    LoadsPreset .brainpoolP512r1 Config.brainpoolP512r1 s (exec (.csel 2) s)) ∧
  (∀ w nreg ncmd : Nat, Config.Valid w nreg ncmd → Config.secp256r1.Fits w ∧ Config.brainpoolP512r1.Fits w) ∧
  ∀ (w nreg ncmd : Nat) (c : Configuration nreg) (s : State.Of w nreg ncmd),
    (c.presets.secp256r1.Fits w → LoadsPreset .secp256r1 c.presets.secp256r1 s (execAt c (.csel 1) s)) ∧
    (c.presets.brainpoolP512r1.Fits w →
      LoadsPreset .brainpoolP512r1 c.presets.brainpoolP512r1 s (execAt c (.csel 2) s))

/-- CLD (42_elliptic_curve.md rule R217): a custom context of A, B and P; E_BAD_CURVE when A or B is not below P. -/
def Obligations.CldLoadsCustom : Prop :=
  ∀ (ra rb rm : Reg) (s : State), GoodModulus (s.val rm) →
    (s.val ra < s.val rm → s.val rb < s.val rm → ∃ t, exec (.cld ra rb rm) s = .next t ∧
      t.curve.id = .custom ∧ t.curve.ca = s.reg ra ∧ t.curve.cb = s.reg rb ∧ t.curve.cp = s.reg rm ∧
      Commits s t ∧ SameRegs s t ∧ t.qr = s.qr ∧ t.key = s.key) ∧
    (s.val rm ≤ s.val ra ∨ s.val rm ≤ s.val rb → Raises .badCurve (.cld ra rb rm) s)

/-- CGET (42_elliptic_curve.md rule R218): the element its selector names; E_NO_GENERATOR for N or G of a custom
context. -/
def Obligations.CgetCopiesElement : Prop :=
  ∀ (rd : Reg) (s : State), s.curve.id ≠ .none →
    (∃ t, exec (.cget rd 0) s = .next t ∧ WritesReg rd s.curve.ca s t) ∧
    (∃ t, exec (.cget rd 1) s = .next t ∧ WritesReg rd s.curve.cb s t) ∧
    (∃ t, exec (.cget rd 2) s = .next t ∧ WritesReg rd s.curve.cp s t) ∧
    (s.curve.id ≠ .custom →
      (∃ t, exec (.cget rd 3) s = .next t ∧ WritesReg rd s.curve.cn s t) ∧
      (∃ t, exec (.cget rd 4) s = .next t ∧ WritesReg rd s.curve.cgx s t) ∧
      (∃ t, exec (.cget rd 5) s = .next t ∧ WritesReg rd s.curve.cgy s t)) ∧
    (s.curve.id = .custom → Raises .noGenerator (.cget rd 3) s ∧ Raises .noGenerator (.cget rd 4) s ∧
      Raises .noGenerator (.cget rd 5) s)

/-- With no curve loaded, every command of the unit but CSEL and CLD takes E_NO_CURVE, whatever its operands hold
(42_elliptic_curve.md rule R215). -/
def Obligations.NoCurveTraps : Prop :=
  ∀ (i : Instr) (s : State), s.curve.id = .none → i.wf = true →
    ((∃ rd sel, i = .cget rd sel) ∨ (∃ pd pa pb, i = .ecadd pd pa pb) ∨ (∃ pd pa, i = .ecdbl pd pa) ∨
      (∃ pd pa, i = .ecneg pd pa) ∨ (∃ pd pa rb neg, i = .ecmul pd pa rb neg) ∨ (∃ pd rb neg, i = .ecmulg pd rb neg)) →
    Raises .noCurve i s

/-- A pair that is no point makes the point commands take E_BAD_POINT, ECADD checking pa first and then pb
(42_elliptic_curve.md rule R214; 60_exceptions.md rule R302). -/
def Obligations.BadPointTraps : Prop :=
  ∀ (pd pa pb : Reg) (s : State), s.curve.id ≠ .none → evenReg pd = true → evenReg pa = true →
    (BadPair s pa → Raises .badPoint (.ecdbl pd pa) s ∧ Raises .badPoint (.ecneg pd pa) s ∧
      (∀ rb neg, Raises .badPoint (.ecmul pd pa rb neg) s) ∧
      (evenReg pb = true → Raises .badPoint (.ecadd pd pa pb) s)) ∧
    (∀ p, ReadsPoint s pa p → evenReg pb = true → BadPair s pb → Raises .badPoint (.ecadd pd pa pb) s)

/-! The curve unit: points. -/

/-- ECADD with an identity operand, or with opposite points (42_elliptic_curve.md rule R219, cases (a) and (b)); and of
points with one abscissa whose ordinates are neither equal nor opposite, which takes E_NOT_INVERTIBLE (R219: such a
pair is off the curve or P is composite). -/
def Obligations.EcaddIdentityAndInverse : Prop :=
  ∀ (pd pa pb : Reg) (s : State) (p q : Point), evenReg pd = true → evenReg pa = true → evenReg pb = true →
    s.curve.id ≠ .none → ReadsPoint s pa p → ReadsPoint s pb q →
    (p = .inf → ∃ t, exec (.ecadd pd pa pb) s = .next t ∧ WritesPoint pd q s t) ∧
    (q = .inf → ∃ t, exec (.ecadd pd pa pb) s = .next t ∧ WritesPoint pd p s t) ∧
    (∀ x y₁ y₂, p = .affine x y₁ → q = .affine x y₂ → (y₁ + y₂) % s.prime = 0 →
      ∃ t, exec (.ecadd pd pa pb) s = .next t ∧ WritesPoint pd .inf s t) ∧
    (∀ x y₁ y₂, p = .affine x y₁ → q = .affine x y₂ → y₁ ≠ y₂ → (y₁ + y₂) % s.prime ≠ 0 →
      Raises .notInvertible (.ecadd pd pa pb) s)

/-- ECADD of points with different abscissas: the chord (42_elliptic_curve.md rules R211, R219, R221). `l` is the slope
(y2 − y1)/(x2 − x1); the result is reduced. A denominator with no inverse takes E_NOT_INVERTIBLE. -/
def Obligations.EcaddChord : Prop :=
  ∀ (pd pa pb : Reg) (s : State) (x₁ y₁ x₂ y₂ : Nat), evenReg pd = true → evenReg pa = true → evenReg pb = true →
    s.curve.id ≠ .none → ReadsPoint s pa (.affine x₁ y₁) → ReadsPoint s pb (.affine x₂ y₂) → x₁ ≠ x₂ →
    (Int.gcd ((x₂ : Int) - x₁) s.prime = 1 → ∃ t x₃ y₃, ∃ l : Int,
      exec (.ecadd pd pa pb) s = .next t ∧ WritesPoint pd (.affine x₃ y₃) s t ∧
      l * ((x₂ : Int) - x₁) ≡ y₂ - y₁ [ZMOD s.prime] ∧ x₃ < s.prime ∧ y₃ < s.prime ∧
      (x₃ : Int) ≡ l * l - x₁ - x₂ [ZMOD s.prime] ∧ (y₃ : Int) ≡ l * (x₁ - x₃) - y₁ [ZMOD s.prime]) ∧
    (Int.gcd ((x₂ : Int) - x₁) s.prime ≠ 1 → Raises .notInvertible (.ecadd pd pa pb) s)

/-- ECDBL of a point, and ECADD of two pairs that hold the same point, the same pair among them: INF for a point of
order 2, else the tangent (42_elliptic_curve.md rules R211, R219, R222). `l` is the slope (3·x² + A)/(2·y). A
denominator with no inverse takes E_NOT_INVERTIBLE. -/
def Obligations.DoublingTangent : Prop :=
  ∀ (pd pa pb : Reg) (s : State) (x y : Nat), evenReg pd = true → evenReg pa = true → evenReg pb = true →
    s.curve.id ≠ .none → ReadsPoint s pa (.affine x y) → ReadsPoint s pb (.affine x y) →
    ∀ i ∈ [Instr.ecdbl pd pa, Instr.ecadd pd pa pb],
      (2 * y % s.prime = 0 → ∃ t, exec i s = .next t ∧ WritesPoint pd .inf s t) ∧
      (2 * y % s.prime ≠ 0 → Nat.gcd (2 * y) s.prime = 1 → ∃ t x₃ y₃, ∃ l : Int,
        exec i s = .next t ∧ WritesPoint pd (.affine x₃ y₃) s t ∧
        l * (2 * y) ≡ 3 * x * x + s.coeffA [ZMOD s.prime] ∧ x₃ < s.prime ∧ y₃ < s.prime ∧
        (x₃ : Int) ≡ l * l - x - x [ZMOD s.prime] ∧ (y₃ : Int) ≡ l * (x - x₃) - y [ZMOD s.prime]) ∧
      (2 * y % s.prime ≠ 0 → Nat.gcd (2 * y) s.prime ≠ 1 → Raises .notInvertible i s)

/-- ECDBL is ECADD of the pair with itself, on every operand and in every state (42_elliptic_curve.md rule R222). -/
def Obligations.EcdblIsEcaddSelf : Prop :=
  ∀ (pd pa : Reg) (s : State), exec (.ecdbl pd pa) s = exec (.ecadd pd pa pa) s ∧
    (evenReg pd = true → evenReg pa = true → s.curve.id ≠ .none → ReadsPoint s pa .inf →
      ∃ t, exec (.ecdbl pd pa) s = .next t ∧ WritesPoint pd .inf s t)

/-- ECNEG (42_elliptic_curve.md rules R220, R223): INF to INF, (x, y) to (x, (P − y) mod P). -/
def Obligations.EcnegResult : Prop :=
  ∀ (pd pa : Reg) (s : State), evenReg pd = true → evenReg pa = true → s.curve.id ≠ .none →
    (ReadsPoint s pa .inf → ∃ t, exec (.ecneg pd pa) s = .next t ∧ WritesPoint pd .inf s t) ∧
    (∀ x y, ReadsPoint s pa (.affine x y) →
      ∃ t, exec (.ecneg pd pa) s = .next t ∧ WritesPoint pd (.affine x ((s.prime - y) % s.prime)) s t)

/-- ECMUL (42_elliptic_curve.md rule R226) writes what `ecmul` of rule R224 gives for the point, the full W-bit scalar
and the modifier, and takes E_NOT_INVERTIBLE when that does; with k = 0 or the point INF it is INF, with k = 1 the
point or its negation. -/
def Obligations.EcmulResult : Prop :=
  ∀ (pd pa rb : Reg) (neg : Bool) (s : State) (p : Point), evenReg pd = true → evenReg pa = true →
    s.curve.id ≠ .none → ReadsPoint s pa p →
    (∀ r, ecMul s.prime s.coeffA p (s.val rb) neg = .ok r →
      ∃ t, exec (.ecmul pd pa rb neg) s = .next t ∧ WritesPoint pd r s t) ∧
    (∀ e, ecMul s.prime s.coeffA p (s.val rb) neg = .error e →
      e = .notInvertible ∧ Raises .notInvertible (.ecmul pd pa rb neg) s) ∧
    (s.val rb = 0 ∨ p = .inf → ∃ t, exec (.ecmul pd pa rb neg) s = .next t ∧ WritesPoint pd .inf s t) ∧
    (s.val rb = 1 → ∃ t, exec (.ecmul pd pa rb neg) s = .next t ∧
      WritesPoint pd (if neg then ecNeg s.prime p else p) s t)

/-- ECMULG (42_elliptic_curve.md rule R227): the same of the preset generator; E_NO_GENERATOR on a custom context. The
premise ContextOk is an invariant (CurveContextKept). -/
def Obligations.EcmulgResult : Prop :=
  ∀ (pd rb : Reg) (neg : Bool) (s : State), evenReg pd = true → ContextOk s.curve → s.curve.id ≠ .none →
    (s.curve.id ≠ .custom →
      (∀ r, ecMul s.prime s.coeffA s.generator (s.val rb) neg = .ok r →
        ∃ t, exec (.ecmulg pd rb neg) s = .next t ∧ WritesPoint pd r s t) ∧
      (s.val rb = 0 → ∃ t, exec (.ecmulg pd rb neg) s = .next t ∧ WritesPoint pd .inf s t) ∧
      (s.val rb = 1 → ∃ t, exec (.ecmulg pd rb neg) s = .next t ∧
        WritesPoint pd (if neg then ecNeg s.prime s.generator else s.generator) s t)) ∧
    (s.curve.id = .custom → Raises .noGenerator (.ecmulg pd rb neg) s)

/-- `ecmul` is double-and-add, most significant bit first (42_elliptic_curve.md rules R224, R225): the multiple by
2·j + b is the multiple by j doubled and, for b = 1, the point added; the modifier negates the result. -/
def Obligations.EcmulIsDoubleAndAdd : Prop :=
  ∀ (p a : Nat) (p₁ : Point) (j : Nat) (b : Bool),
    ecMul p a p₁ 0 false = .ok .inf ∧
    ecMul p a p₁ (2 * j + b.toNat) false = (do
      let r ← ecMul p a p₁ j false
      let d ← ecAdd p a r r
      ecAddBit p a p₁ b d) ∧
    ecMul p a p₁ j true = (do
      let r ← ecMul p a p₁ j false
      .ok (ecNeg p r))

/-- Point addition commutes, and a point and its negation add to INF, for every modulus and all reduced points
(42_elliptic_curve.md rule R229). -/
def Obligations.EcaddCommutesAndInverts : Prop :=
  ∀ (p a : Nat) (p₁ p₂ : Point), Reduced p p₁ → Reduced p p₂ →
    ecAdd p a p₁ p₂ = ecAdd p a p₂ p₁ ∧ ecAdd p a p₁ (ecNeg p p₁) = .ok .inf

/-- On a curve over an odd prime, addition and scalar multiplication of points of the curve never raise
E_NOT_INVERTIBLE and give reduced points of the curve (42_elliptic_curve.md rules R219, R229). -/
def Obligations.CurveIsClosed : Prop :=
  ∀ (p a b : Nat) (p₁ p₂ : Point) (k : Nat) (neg : Bool), Nat.Prime p → p ≠ 2 →
    Reduced p p₁ → Reduced p p₂ → OnCurve p a b p₁ → OnCurve p a b p₂ →
    (∃ r, ecAdd p a p₁ p₂ = .ok r ∧ Reduced p r ∧ OnCurve p a b r) ∧
    (∃ r, ecMul p a p₁ k neg = .ok r ∧ Reduced p r ∧ OnCurve p a b r)

/-- The pseudo-instruction `ecsub` (30_encoding.md rule R134): its two commands leave P − Q = P + (−Q) in pd where the
scratch pair differs from pa. Where pt = pa = pb, which the rule's operand condition allows, the words of its
expansion leave (−P) + (−P) instead (assumption log 10). -/
def Obligations.EcsubExpansion : Prop :=
  ∀ (pd pa pb pt : Reg) (s : State) (p q r : Point), (Pseudo.ecsub pd pa pb pt).wf = true → s.curve.id ≠ .none →
    ReadsPoint s pa p → ReadsPoint s pb q →
    (Pseudo.ecsub pd pa pb pt).expand = [.ecneg pt pb, .ecadd pd pa pt] ∧
    (pt ≠ pa → ecAdd s.prime s.coeffA p (ecNeg s.prime q) = .ok r →
      ∃ t u, exec (.ecneg pt pb) s = .next t ∧ exec (.ecadd pd pa pt) t = .next u ∧ HoldsPoint u pd r) ∧
    (pt = pa → pa = pb → ecAdd s.prime s.coeffA (ecNeg s.prime p) (ecNeg s.prime p) = .ok r →
      ∃ t u, exec (.ecneg pt pb) s = .next t ∧ exec (.ecadd pd pa pt) t = .next u ∧ HoldsPoint u pd r)

/-! The cipher unit. -/

/-- MKEY (43_meongcipher.md rules R262, R270): with length 16 it loads the ten subkeys of the schedule of the key in the
low 128 bits of ra; with any other length E_KEY_LENGTH, and the key state stays. -/
def Obligations.MkeyLoadsSchedule : Prop :=
  ∀ (ra rb : Reg) (s : State),
    (s.val rb = 16 → ∃ t, exec (.mkey ra rb) s = .next t ∧ t.key.keyv = true ∧
      (∀ i : Fin 16, t.key.rk[0][i] = BitVec.ofNat 8
        ((∑ j : Fin 16, (Config.cipher.ksMul i j).toNat * ((s.reg ra).extractLsb' (8 * j.val) 8).toNat) % 256) ^^^
          Config.cipher.ksAdd i) ∧
      (∀ (r : Fin 9) (i : Fin 16), t.key.rk[r.val + 1][i] = BitVec.ofNat 8
        ((∑ j : Fin 16, (Config.cipher.ksMul i j).toNat * (t.key.rk[r.val][j]).toNat) % 256) ^^^ Config.cipher.ksAdd i) ∧
      Commits s t ∧ SameRegs s t ∧ t.qr = s.qr ∧ t.curve = s.curve) ∧
    (s.val rb ≠ 16 → Raises .keyLength (.mkey ra rb) s)

/-- MENC and MDEC (43_meongcipher.md rules R261, R264 to R269, R271, R272): with a key, the block in the low 128 bits of
the source encrypts to the destination's by the steps of rule R268, written out on the tables in `EncryptsTo`, and for
MDEC the destination's encrypts to the source's (R269: the exact inverse); byte i of the destination is byte i of the
block function's result, and the bits above 127 are zero. With no key, E_NO_KEY. -/
def Obligations.MencMdecResult : Prop :=
  ∀ (rd ra : Reg) (s : State),
    (s.key.keyv = true →
      (∃ t, exec (.menc rd ra) s = .next t ∧ WritesReg rd (t.reg rd) s t ∧ t.val rd < 2 ^ 128 ∧
        EncryptsTo Config.cipher s.key.rk (s.reg ra) (t.reg rd) ∧
        ∀ i : Fin 16, (t.reg rd).extractLsb' (8 * i.val) 8 =
          (meongEncrypt Config.cipher (blockOf (s.reg ra)) s.key.rk)[i]) ∧
      (∃ t, exec (.mdec rd ra) s = .next t ∧ WritesReg rd (t.reg rd) s t ∧ t.val rd < 2 ^ 128 ∧
        EncryptsTo Config.cipher s.key.rk (t.reg rd) (s.reg ra) ∧
        ∀ i : Fin 16, (t.reg rd).extractLsb' (8 * i.val) 8 =
          (meongDecrypt Config.cipher (blockOf (s.reg ra)) s.key.rk)[i])) ∧
    (s.key.keyv = false → Raises .noKey (.menc rd ra) s ∧ Raises .noKey (.mdec rd ra) s)

/-- The round trip (43_meongcipher.md rule R273): for every configuration with the properties of rule R260, which are
those of the type CipherTables, every sequence of subkeys and every block. -/
def Obligations.CipherRoundTrip : Prop :=
  ∀ (t : CipherTables) (b : Block) (rk : Vector Block 10), meongDecrypt t (meongEncrypt t b rk) rk = b

/-- MENC and then MDEC of its result give back the low 128 bits of the source (43_meongcipher.md rule R272's
example), for all three registers. -/
def Obligations.MencThenMdec : Prop :=
  ∀ (rd ra rq : Reg) (s : State), s.key.keyv = true → ∃ t u, exec (.menc rd ra) s = .next t ∧
    exec (.mdec rq rd) t = .next u ∧ u.val rq = s.val ra % 2 ^ 128

/-- The bits of a source register above 127 do not reach a cipher command's result (43_meongcipher.md rule R261): two
states that agree but for those bits of ra, ra not the destination's other use, give the same destination and key. -/
def Obligations.UpperBitsIgnored : Prop :=
  ∀ (rd ra rb : Reg) (s : State) (v : Word) (t u : State), v.toNat % 2 ^ 128 = s.val ra % 2 ^ 128 →
    (exec (.menc rd ra) s = .next t → exec (.menc rd ra) (s.setReg ra v) = .next u → s.key.keyv = true →
      t.reg rd = u.reg rd) ∧
    (exec (.mdec rd ra) s = .next t → exec (.mdec rd ra) (s.setReg ra v) = .next u → s.key.keyv = true →
      t.reg rd = u.reg rd) ∧
    (exec (.mkey ra rb) s = .next t → exec (.mkey ra rb) (s.setReg ra v) = .next u → rb ≠ ra → t.key = u.key)

/-! The host interface. -/

/-- The command window while idle (20_memory.md rules R81, R83): a word written at 0x1000 + 4·k is CMD[k], reads back,
and leaves every other command word and everything else. -/
def Obligations.CommandWindow : Prop :=
  ∀ (s : State) (k : BitVec 10) (v : CmdWord), s.busy = false →
    (∃ t, serve s (.write (BitVec.ofNat 16 (0x1000 + 4 * k.toNat)) 4 v) = t ∧ readCmd t.mem k.toNat = some v ∧
      (∀ q, q ≠ k.toNat → readCmd t.mem q = readCmd s.mem q) ∧ t = { s with mem := t.mem }) ∧
    (∀ w, readCmd s.mem k.toNat = some w →
      serve s (.read (BitVec.ofNat 16 (0x1000 + 4 * k.toNat)) 4) = { s with readData := w })

/-- The operand-register window while idle (20_memory.md rules R84, R85): word k of register r is at
0x4000 + 0x100·r + 4·k; a read gives bits 32·k+31 to 32·k, and a write replaces exactly those bits. -/
def Obligations.RegisterWindow : Prop :=
  ∀ (s : State) (r : Reg) (k : BitVec 6) (v : CmdWord), s.busy = false →
    (∃ t, serve s (.write (BitVec.ofNat 16 (0x4000 + 0x100 * r.val + 4 * k.toNat)) 4 v) = t ∧
      (∀ b, (t.reg r).getLsbD b =
        if 32 * k.toNat ≤ b ∧ b < 32 * k.toNat + 32 then v.getLsbD (b - 32 * k.toNat) else (s.reg r).getLsbD b) ∧
      SameRegsBut r s t ∧ t = { s with regs := t.regs }) ∧
    (∃ t, serve s (.read (BitVec.ofNat 16 (0x4000 + 0x100 * r.val + 4 * k.toNat)) 4) = t ∧
      (∀ b, b < 32 → t.readData.getLsbD b = (s.reg r).getLsbD (32 * k.toNat + b)) ∧ t = { s with readData := t.readData })

/-- When a write is taken and when it is ignored. While BUSY = 1 (20_memory.md rule R92) a write of either window or
of CPC is ignored and sets HOSTERR, and a read of either window changes nothing but what it returns. While idle a
write of CPC takes bits 15:0 and ignores the rest, and nothing else changes (10_state.md rule R39). A write of a
read-only register (ID, CONFIG, ERRCODE, ERRPC, RETIRED) is ignored at any time and does not set HOSTERR (20_memory.md
rule R89). -/
def Obligations.BusyWindows : Prop :=
  (∀ (s : State) (addr : HostAddr), s.busy = true → addr.toNat % 4 = 0 →
    (0x1000 ≤ addr.toNat ∧ addr.toNat < 0x2000 ∨ 0x4000 ≤ addr.toNat ∧ addr.toNat < 0x5000 →
      (∀ v, serve s (.write addr 4 v) = setHostErr s) ∧ SameButReadData s (serve s (.read addr 4))) ∧
    (∀ v, addr = 0x0018 → serve s (.write addr 4 v) = setHostErr s)) ∧
  (∀ (s : State) (v : CmdWord), s.busy = false →
    serve s (.write 0x0018 4 v) = { s with cpc := BitVec.ofNat 16 (v.toNat % 2 ^ 16) }) ∧
  (∀ (s : State) (v : CmdWord), serve s (.write 0x0000 4 v) = s ∧ serve s (.write 0x0004 4 v) = s ∧
    serve s (.write 0x0010 4 v) = s ∧ serve s (.write 0x0014 4 v) = s ∧ serve s (.write 0x0024 4 v) = s)

/-- A protocol violation, by size or alignment, or an access to an unmapped address, has no effect but HOSTERR, and a
read of it returns 0 (20_memory.md rules R88, R90). -/
def Obligations.HostProtocolViolations : Prop :=
  ∀ (s : State) (addr : HostAddr) (size : Nat),
    (size ≠ 4 ∨ addr.toNat % 4 ≠ 0 ∨ (0x0028 ≤ addr.toNat ∧ addr.toNat < 0x1000) ∨
      (0x2000 ≤ addr.toNat ∧ addr.toNat < 0x4000) ∨ 0x5000 ≤ addr.toNat) →
    (∀ v, serve s (.write addr size v) = { s with hosterr := true }) ∧
    serve s (.read addr size) = { s with hosterr := true, readData := 0 }

/-- No defined host read has a side effect (20_memory.md rule R93): everything but the model's own record of the read
is as before. That record is the returned word, the count of free values drawn, and, for duty H-12, that ERRCODE or
ERRPC has been read (assumption log 22). -/
def Obligations.ReadsHaveNoSideEffect : Prop :=
  ∀ (s : State) (addr : HostAddr), addr.toNat % 4 = 0 → target addr ≠ .unmapped →
    SameButReadData s (serve s (.read addr 4)) ∧
    (addr ≠ 0x0010 → addr ≠ 0x0014 → (serve s (.read addr 4)).reportRead = s.reportRead) ∧
    (addr = 0x0010 → (serve s (.read addr 4)).reportRead = { s.reportRead with code := true }) ∧
    (addr = 0x0014 → (serve s (.read addr 4)).reportRead = { s.reportRead with pc := true })

/-- What a read of each control register but CTRL and IRQ_PEND returns (10_state.md rules R33, R34, R36 to R40, R42,
R45, R46): the constants of ID and CONFIG, the fields of STATUS, the error code by its number in 60_exceptions.md rule
R300, ERRPC, CPC, IRQ_EN and RETIRED, reserved bits 0. -/
def Obligations.StatusFields : Prop :=
  ∀ s : State,
    (serve s (.read 0x0000 4)).readData = 0x4B430100 ∧
    (serve s (.read 0x0004 4)).readData = 0x04002010 ∧
    (∃ t, serve s (.read 0x000C 4) = t ∧ t.readData.getLsbD 0 = s.busy ∧ t.readData.getLsbD 1 = s.done ∧
      t.readData.getLsbD 2 = s.err ∧ t.readData.getLsbD 3 = s.qr ∧ t.readData.getLsbD 4 = s.key.keyv ∧
      (t.readData.extractLsb' 5 2).toNat =
        (match s.curve.id with
        | .none => 0
        | .secp256r1 => 1
        | .brainpoolP512r1 => 2
        | .custom => 3) ∧
      (t.readData.getLsbD 7 = true ↔ s.curve.id = .secp256r1 ∨ s.curve.id = .brainpoolP512r1) ∧
      t.readData.getLsbD 8 = s.hosterr ∧ (∀ b, 9 ≤ b → t.readData.getLsbD b = false)) ∧
    (serve s (.read 0x0010 4)).readData.toNat =
      (match s.errcode with
      | .none => 0
      | .illegal => 1
      | .badModulus => 2
      | .notInvertible => 3
      | .sqrtModulus => 4
      | .noCurve => 5
      | .noGenerator => 6
      | .badPoint => 7
      | .badCurve => 8
      | .keyLength => 9
      | .noKey => 10
      | .pcRange => 11
      | .aborted => 12) ∧
    (serve s (.read 0x0014 4)).readData.toNat = s.errpc.toNat ∧
    (serve s (.read 0x0018 4)).readData.toNat = s.cpc.toNat ∧
    (∃ t, serve s (.read 0x001C 4) = t ∧ ∀ b, t.readData.getLsbD b =
      if b = 0 then s.irqEn.done else if b = 1 then s.irqEn.err else false) ∧
    (serve s (.read 0x0024 4)).readData = s.retired

/-- Writes of CTRL (10_state.md rule R35; 40_sequencer.md rule R151; 60_exceptions.md rule R310): START while idle
begins a run at the current CPC and clears the report, and while busy is ignored with HOSTERR; ABORT ends a run by the
trap E_ABORTED at this command boundary, and while idle does nothing; both at once is ABORT only, with HOSTERR; every
other bit does nothing, and CTRL reads 0. -/
def Obligations.ControlWrites : Prop :=
  ∀ (s : State) (v : CmdWord),
    (v.getLsbD 0 = true → v.getLsbD 1 = false → s.busy = false → serve s (.write 0x0008 4 v) =
      { s with busy := true, done := false, err := false, errcode := .none, errpc := 0 }) ∧
    (v.getLsbD 0 = true → v.getLsbD 1 = false → s.busy = true → serve s (.write 0x0008 4 v) = { s with hosterr := true }) ∧
    (v.getLsbD 0 = false → v.getLsbD 1 = true → s.busy = true → Traps .aborted s (serve s (.write 0x0008 4 v))) ∧
    (v.getLsbD 0 = false → v.getLsbD 1 = true → s.busy = false → serve s (.write 0x0008 4 v) = s) ∧
    (v.getLsbD 0 = true → v.getLsbD 1 = true → ∃ t, serve s (.write 0x0008 4 v) = { t with hosterr := true } ∧
      (s.busy = true → Traps .aborted s t) ∧ (s.busy = false → t = s)) ∧
    (v.getLsbD 0 = false → v.getLsbD 1 = false → serve s (.write 0x0008 4 v) = s) ∧
    serve s (.read 0x0008 4) = { s with readData := 0 }

/-- The interrupt registers (10_state.md rules R40, R41, R49): IRQ_EN takes bits 0 and 1, IRQ_PEND's bits clear where
1 is written, STATUS bit 8 clears HOSTERR, and irq is the masked OR; nothing else changes, and reserved bits read 0. -/
def Obligations.InterruptRegisters : Prop :=
  ∀ (s : State) (v : CmdWord),
    (∃ t, serve s (.write 0x001C 4 v) = t ∧ t.irqEn.done = v.getLsbD 0 ∧ t.irqEn.err = v.getLsbD 1 ∧
      t = { s with irqEn := t.irqEn } ∧
      (irq t = true ↔ s.irqPend.done = true ∧ v.getLsbD 0 = true ∨ s.irqPend.err = true ∧ v.getLsbD 1 = true)) ∧
    (∃ t, serve s (.write 0x0020 4 v) = t ∧ (t.irqPend.done = true ↔ s.irqPend.done = true ∧ v.getLsbD 0 = false) ∧
      (t.irqPend.err = true ↔ s.irqPend.err = true ∧ v.getLsbD 1 = false) ∧ t = { s with irqPend := t.irqPend }) ∧
    (∃ t, serve s (.write 0x000C 4 v) = t ∧ (t.hosterr = true ↔ s.hosterr = true ∧ v.getLsbD 8 = false) ∧
      t = { s with hosterr := t.hosterr }) ∧
    (∃ t, serve s (.read 0x001C 4) = t ∧ ∀ b, t.readData.getLsbD b =
      if b = 0 then s.irqEn.done else if b = 1 then s.irqEn.err else false) ∧
    (∃ t, serve s (.read 0x0020 4) = t ∧ ∀ b, t.readData.getLsbD b =
      if b = 0 then s.irqPend.done else if b = 1 then s.irqPend.err else false)

/-- A pending bit stays set until the host writes 1 to that bit or resets the core; START does not clear it
(60_exceptions.md rule R307). Bit by bit: a write of IRQ_PEND that clears the one leaves the other. -/
def Obligations.PendingBitsStick : Prop :=
  ∀ s t : State, step s = .next t → ¬nextIsReset s →
    ((∀ v rest, s.agenda = .bus (.write 0x0020 4 v) :: rest → v.getLsbD 0 = false) → s.irqPend.done = true →
      t.irqPend.done = true) ∧
    ((∀ v rest, s.agenda = .bus (.write 0x0020 4 v) :: rest → v.getLsbD 1 = false) → s.irqPend.err = true →
      t.irqPend.err = true)

/-! Reset. -/

/-- The reset state holds what 10_state.md rule R60 states, and the model's choices where it states none: the operand
registers are zero (assumption log 1), and no byte of command memory has a value (assumption log 6). -/
def Obligations.ResetValues : Prop :=
  statusWord State.reset = 0 ∧ State.reset.errcode.code = 0 ∧ State.reset.errpc = 0 ∧ State.reset.cpc = 0 ∧
  State.reset.irqEn.word = 0 ∧ State.reset.irqPend.word = 0 ∧ State.reset.retired = 0 ∧
  State.reset.busy = false ∧ State.reset.curve.id = .none ∧ State.reset.key.keyv = false ∧ irq State.reset = false ∧
  (∀ r, State.reset.reg r = 0) ∧ (∀ a, memRead State.reset.mem a = none)

/-- A reset from any state, in a run or not (70_reset_and_hazards.md rule R340; 10_state.md rule R60): every value the
spec states is as after power-on, and the run has ended without DONE, ERR or a pending bit. Two clauses are the model's
choice: no byte of command memory counts as written, where the spec leaves the words unspecified
(93_implementation_defined.md I2; assumption log 6), and the operand registers are free values of Config (assumption log
2). -/
def Obligations.ResetFromAnyState : Prop :=
  ∀ (s : State) (o : Option Access) (rest : List Turn), s.agenda = .reset o :: rest →
    ∃ t, step s = .next t ∧ statusWord t = 0 ∧ t.busy = false ∧ t.done = false ∧ t.err = false ∧
      t.errcode = .none ∧ t.errpc = 0 ∧ t.cpc = 0 ∧ t.irqEn.word = 0 ∧ t.irqPend.word = 0 ∧ t.retired = 0 ∧
      t.curve.id = .none ∧ t.key.keyv = false ∧ irq t = false ∧ (∀ a, memRead t.mem a = none) ∧ t.agenda = rest ∧
      (∀ r : Reg, t.reg r = Config.freeWord 2048 (s.draws + r.val))

/-! Invariants. -/

/-- Every step keeps command memory in canonical form and inside its window (20_memory.md rules R81, R83). -/
def Obligations.MemoryFormKept : Prop := ∀ s t : State, MemoryOk s → step s = .next t → MemoryOk t

/-- Every step keeps the status bits and the error report in agreement (10_state.md rules R36 to R38; 40_sequencer.md
rule R151). -/
def Obligations.RunFlagsKept : Prop := ∀ s t : State, RunOk s → step s = .next t → RunOk t

/-- Every step keeps a loaded curve context one that CSEL or CLD wrote: a preset's constants under its id, or a custom
odd P ≥ 3 with A and B below it (10_state.md rule R45; 42_elliptic_curve.md rules R216, R217). -/
def Obligations.CurveContextKept : Prop := ∀ s t : State, ContextOk s.curve → step s = .next t → ContextOk t.curve

/-- Every step keeps a loaded key state the schedule of one master key (10_state.md rule R47; 43_meongcipher.md rule
R262). -/
def Obligations.KeyScheduleKept : Prop := ∀ s t : State, KeyOk s.key → step s = .next t → KeyOk t.key

/-- The four invariants hold at reset. -/
def Obligations.InvariantsAtReset : Prop :=
  MemoryOk State.reset ∧ RunOk State.reset ∧ ContextOk State.reset.curve ∧ KeyOk State.reset.key
end

