-- ==== Sys2Proof/Laws/Arith.lean ====
section
/-! SUPPORT. What the arithmetic of the model computes: the square-and-multiply loop is exponentiation (R183), the
extended Euclidean algorithm gives the inverse (R17, R185), and the integer residue is one. -/

namespace Sys2Proof.Machine

theorem lt_two_pow_bitlen (n : Nat) : n < 2 ^ bitlen n := by
  unfold bitlen
  split_ifs with h
  · simp [h]
  · exact Nat.lt_log2_self

/-- Everything below the top bits: the loop has multiplied the square of its argument by the remaining power. -/
theorem powLoop_mod (a e m i r : Nat) : powLoop a e m i r % m = r ^ 2 ^ i * a ^ (e % 2 ^ i) % m := by
  induction i generalizing r with
  | zero => simp [powLoop, Nat.mod_one]
  | succ i ih =>
    rw [powLoop, ih, Nat.mod_pow_succ, ← Nat.toNat_testBit]
    have hsq : ∀ x : Nat, (x % m) ^ 2 ^ i % m = x ^ 2 ^ i % m := fun x => (Nat.pow_mod x _ m).symm
    have hpow : r ^ 2 ^ (i + 1) = (r * r) ^ 2 ^ i := by rw [pow_succ, mul_comm, pow_mul, pow_two]
    cases h : e.testBit i
    · rw [if_neg (by simp), Nat.mul_mod, hsq, ← Nat.mul_mod, hpow]
      simp
    · rw [if_pos rfl, Nat.mul_mod, hsq, ← Nat.mul_mod, hpow, mul_pow, Nat.mul_mod, Nat.mul_mod ((r * r % m) ^ 2 ^ i),
        hsq, ← Nat.mul_mod ((r * r) ^ 2 ^ i), ← Nat.mul_mod, pow_add]
      simp only [Bool.toNat_true, mul_one]
      ring_nf

/-- `modpow(a, e, m)` is a^e mod m (R183). -/
theorem powMod_eq (a e m : Nat) : powMod a e m = a ^ e % m := by
  rw [powMod, powLoop_mod, Nat.mod_eq_of_lt (lt_two_pow_bitlen e), one_pow, one_mul]

/-- The Euclidean invariant: what is returned, times the input, is the greatest common divisor modulo m. -/
theorem egcd_modEq (a m : Nat) (fuel r0 r1 : Nat) (t0 t1 : Int) (hf : r1 < fuel) (h0 : t0 * a ≡ r0 [ZMOD m])
    (h1 : t1 * a ≡ r1 [ZMOD m]) : egcd fuel r0 r1 t0 t1 * a ≡ (Nat.gcd r0 r1 : Nat) [ZMOD m] := by
  induction fuel generalizing r0 r1 t0 t1 with
  | zero => omega
  | succ fuel ih =>
    rw [egcd]
    split_ifs with h
    · subst h
      simpa using h0
    · have hlt := Nat.mod_lt r0 (Nat.pos_of_ne_zero h)
      have hstep : (t0 - (r0 / r1 : Nat) * t1) * a ≡ (r0 % r1 : Nat) [ZMOD m] := by
        have heq : ((r0 % r1 : Nat) : Int) = r0 - (r0 / r1 : Nat) * r1 := by
          have := congrArg (fun n : Nat => (n : Int)) (Nat.mod_add_div' r0 r1)
          simp only [Nat.cast_add, Nat.cast_mul] at this
          linarith
        rw [heq, sub_mul, mul_assoc]
        exact h0.sub (h1.mul_left _)
      have := ih r1 (r0 % r1) t1 _ (by omega) h1 hstep
      rwa [Nat.gcd_comm r1, ← Nat.gcd_rec, Nat.gcd_comm r1] at this

theorem imod_lt (z : Int) {m : Nat} (h : 0 < m) : imod z m < m := by
  have := Int.emod_lt_of_pos z (by exact_mod_cast h : (0 : Int) < m)
  have := Int.emod_nonneg z (by exact_mod_cast h.ne' : (m : Int) ≠ 0)
  unfold imod
  omega

/-- The residue is congruent to its argument. -/
theorem imod_modEq (z : Int) {m : Nat} (h : 0 < m) : (imod z m : Int) ≡ z [ZMOD m] := by
  have := Int.emod_nonneg z (by exact_mod_cast h.ne' : (m : Int) ≠ 0)
  rw [imod, Int.toNat_of_nonneg this]
  exact Int.mod_modEq z m

theorem invMod_lt (a : Nat) {m : Nat} (h : 0 < m) : invMod a m < m := imod_lt _ h

/-- The inverse is one: its product with the input is 1 modulo m (R17). -/
theorem mul_invMod (a m : Nat) (hm : 1 < m) (h : Nat.gcd (a % m) m = 1) : a * invMod a m % m = 1 := by
  have hpos : 0 < m := by omega
  have hres : ((a % m : Nat) : Int) ≡ a [ZMOD m] := by exact_mod_cast Int.mod_modEq a m
  have key := egcd_modEq (a % m) m (m + 1) m (a % m) 0 1 (by have := Nat.mod_lt a hpos; omega)
    (by simp [Int.modEq_iff_dvd]) (by simp)
  rw [Nat.gcd_comm, h] at key
  have : (a : Int) * (invMod a m : Nat) ≡ 1 [ZMOD m] := by
    have h1 : ((invMod a m : Nat) : Int) ≡ _ [ZMOD m] := imod_modEq _ hpos
    calc (a : Int) * (invMod a m : Nat) ≡ a * egcd (m + 1) m (a % m) 0 1 [ZMOD m] := h1.mul_left _
      _ ≡ (a % m : Nat) * egcd (m + 1) m (a % m) 0 1 [ZMOD m] := (hres.symm).mul_right _
      _ = egcd (m + 1) m (a % m) 0 1 * (a % m : Nat) := mul_comm _ _
      _ ≡ 1 [ZMOD m] := key
  have h2 : a * invMod a m ≡ 1 [MOD m] := by
    rw [← Int.natCast_modEq_iff]
    exact_mod_cast this
  rw [h2, Nat.mod_eq_of_lt hm]

end Sys2Proof.Machine
end

