-- ==== Sys2Proof/Laws/Cipher.lean ====
section
/-! SUPPORT. Each layer of MeongCipher and its inverse (43_meongcipher.md rules R264 to R266), and the byte image of a
register (R261). -/

namespace Sys2Proof.Machine

variable {w : Nat}

theorem subBytes_symm (f : Equiv.Perm Byte) (s : Block) : subBytes f.symm (subBytes f s) = s := by
  ext i hi
  simp [subBytes]

/-- The bits of a block made of bits. -/
theorem blockBit_blockOfBits (f : Fin 128 → Bool) (j : Fin 128) : blockBit (blockOfBits f) j = f j := by
  have h : j.val % 8 < 8 := by omega
  simp only [blockBit, blockOfBits, Vector.getElem_ofFn]
  rw [BitVec.getMsbD_ofFnBE, dif_pos h]
  exact congrArg f (Fin.ext (by simp; omega))

/-- A block is its bits (R265). -/
theorem blockOfBits_blockBit (s : Block) : blockOfBits (blockBit s) = s := by
  apply Vector.ext
  intro i hi
  simp only [blockOfBits, Vector.getElem_ofFn]
  apply BitVec.eq_of_getMsbD_eq
  intro k hk
  rw [BitVec.getMsbD_ofFnBE, dif_pos hk]
  simp [blockBit, show (8 * i + k) / 8 = i by omega, Nat.mod_eq_of_lt hk]

theorem bitPermute_symm (t : Equiv.Perm (Fin 128)) (s : Block) : bitPermute (bitPermute s t) t.symm = s := by
  unfold bitPermute
  simp only [blockBit_blockOfBits, Equiv.apply_symm_apply]
  exact blockOfBits_blockBit s

theorem bytePermute_symm (t : Equiv.Perm (Fin 16)) (s : Block) : bytePermute (bytePermute s t) t.symm = s := by
  ext i hi
  simp [bytePermute]

theorem xorHalf_self (a b : Half) : xorHalf (xorHalf a b) b = a := by
  ext i hi
  simp [xorHalf]

theorem loHalf_join (a b : Half) : loHalf (joinHalves a b) = a := by
  ext i hi
  simp [loHalf, joinHalves]

theorem hiHalf_join (a b : Half) : hiHalf (joinHalves a b) = b := by
  ext i hi
  simp [hiHalf, joinHalves]

theorem join_halves (s : Block) : joinHalves (loHalf s) (hiHalf s) = s := by
  ext i hi
  by_cases h : i < 8 <;> simp [loHalf, hiHalf, joinHalves, h]
  simp [show i - 8 + 8 = i by omega]

/-! The byte image of a register (R261). -/

theorem natOfBytes_lt (bs : List Byte) : natOfBytes bs < 2 ^ (8 * bs.length) := by
  induction bs with
  | nil => simp [natOfBytes]
  | cons b bs ih =>
    simp only [natOfBytes, List.length_cons]
    have hb := b.isLt
    have hpow : 2 ^ (8 * (bs.length + 1)) = 256 * 2 ^ (8 * bs.length) := by
      rw [Nat.mul_succ, pow_add, mul_comm]
      norm_num
    omega

/-- Byte `i` of a byte string's integer. -/
theorem natOfBytes_byte (bs : List Byte) (i : Nat) (h : i < bs.length) :
    natOfBytes bs / 2 ^ (8 * i) % 256 = bs[i].toNat := by
  induction bs generalizing i with
  | nil => simp at h
  | cons b bs ih =>
    have hb := b.isLt
    cases i with
    | zero => simp only [natOfBytes, List.getElem_cons_zero]; omega
    | succ i =>
      have hdiv : natOfBytes (b :: bs) / 256 = natOfBytes bs := by simp only [natOfBytes]; omega
      have hpow : 2 ^ (8 * (i + 1)) = 256 * 2 ^ (8 * i) := by rw [Nat.mul_succ, pow_add, mul_comm]; norm_num
      rw [hpow, ← Nat.div_div_eq_div_mul, hdiv, List.getElem_cons_succ]
      exact ih i (by simpa using h)

theorem toNat_wordOfBlock (b : Block) (hw : 128 ≤ w) : (wordOfBlock b : Word w).toNat = natOfBytes b.toList := by
  have h := natOfBytes_lt b.toList
  rw [Vector.length_toList] at h
  exact Nat.mod_eq_of_lt (lt_of_lt_of_le h (Nat.pow_le_pow_right (by omega) (by omega)))

/-- A block's register value has zeros above bit 127. -/
theorem wordOfBlock_lt (b : Block) (hw : 128 ≤ w) : (wordOfBlock b : Word w).toNat < 2 ^ 128 := by
  have h := natOfBytes_lt b.toList
  rw [Vector.length_toList] at h
  rw [toNat_wordOfBlock b hw]; exact h

/-- A block written to a register and read back. -/
theorem blockOf_wordOfBlock (b : Block) (hw : 128 ≤ w) : blockOf (wordOfBlock b : Word w) = b := by
  apply Vector.ext
  intro i hi
  apply BitVec.eq_of_toNat_eq
  simp only [blockOf, Vector.getElem_ofFn]
  rw [BitVec.extractLsb'_toNat, toNat_wordOfBlock b hw, Nat.shiftRight_eq_div_pow]
  have := natOfBytes_byte b.toList i (by simpa using hi)
  simpa using this

/-- The integer of a register's block is its low 128 bits. -/
theorem wordOfBlock_blockOf (v : Word w) (hw : 128 ≤ w) :
    (wordOfBlock (blockOf v) : Word w).toNat = v.toNat % 2 ^ 128 := by
  have key : ∀ n k (f : Fin n → Byte), (∀ i, (f i).toNat = v.toNat / 2 ^ (8 * (k + i.val)) % 256) →
      natOfBytes (List.ofFn f) = v.toNat / 2 ^ (8 * k) % 2 ^ (8 * n) := by
    intro n
    induction n with
    | zero => intro k f _; simp [natOfBytes, Nat.mod_one]
    | succ n ih =>
      intro k f hf
      rw [List.ofFn_succ, natOfBytes, ih (k + 1) _ (fun i => by
        rw [hf, Fin.val_succ, show k + (i.val + 1) = k + 1 + i.val by omega]), hf]
      have h1 : 2 ^ (8 * (k + 1)) = 2 ^ (8 * k) * 256 := by rw [Nat.mul_succ, pow_add]; norm_num
      have h2 : 2 ^ (8 * (n + 1)) = 256 * 2 ^ (8 * n) := by rw [Nat.mul_succ, pow_add, mul_comm]; norm_num
      rw [h1, h2, ← Nat.div_div_eq_div_mul, Nat.mod_mul]
      simp
  rw [toNat_wordOfBlock _ hw]
  have h := key 16 0 (fun i => v.extractLsb' (8 * i.val) 8)
    (fun i => by rw [BitVec.extractLsb'_toNat, Nat.shiftRight_eq_div_pow, Nat.zero_add])
  have hlist : (blockOf v).toList = List.ofFn (fun i : Fin 16 => v.extractLsb' (8 * i.val) 8) := by
    simp only [blockOf, Vector.toList_ofFn]
  rw [hlist, h]
  simp

end Sys2Proof.Machine
end

