-- ==== Sys2Proof/Laws/Configured.lean ====
section
/-! SUPPORT. The machine of R12 is the configuration with W = 2048, NREG = 16 and NCMD = 1024, the presets of R212 and
the open cipher (00_scope.md rules R12, R14; 10_state.md rule R30). -/

namespace Sys2Proof.Machine

theorem exec_eq_execAt (i : Instr) (s : State) : exec i s = execAt Config.standard i s := by cases i <;> rfl

theorem exec_eq : exec = execAt (w := 2048) (ncmd := 1024) Config.standard :=
  funext fun i => funext (exec_eq_execAt i)

theorem sequencerTurn_eq_at (s : State) : sequencerTurn exec s = sequencerTurnAt Config.standard s := by
  rw [sequencerTurnAt, exec_eq]

theorem step_eq_stepAt (s : State) : step s = stepAt Config.standard s := by
  rw [step, stepAt, exec_eq]

end Sys2Proof.Machine
end

