-- ==== Sys2Proof/Laws/State.lean ====
section
/-! SUPPORT. One lemma per field of State and update of it, so that no proof unfolds a record update; and the register
read after each update. -/

namespace Sys2Proof.Machine

section fields

variable {w nreg ncmd : Nat} (e : ErrorCode) (c : CmdWord) (s : State.Of w nreg ncmd) (r : Reg nreg) (v : Word w) (n : Nat)

/-! setReg -/

@[simp] theorem setReg_regs : (s.setReg r v).regs = s.regs.set r.val v r.isLt := rfl
@[simp] theorem setReg_mem : (s.setReg r v).mem = s.mem := rfl
@[simp] theorem setReg_cpc : (s.setReg r v).cpc = s.cpc := rfl
@[simp] theorem setReg_busy : (s.setReg r v).busy = s.busy := rfl
@[simp] theorem setReg_done : (s.setReg r v).done = s.done := rfl
@[simp] theorem setReg_err : (s.setReg r v).err = s.err := rfl
@[simp] theorem setReg_qr : (s.setReg r v).qr = s.qr := rfl
@[simp] theorem setReg_hosterr : (s.setReg r v).hosterr = s.hosterr := rfl
@[simp] theorem setReg_errcode : (s.setReg r v).errcode = s.errcode := rfl
@[simp] theorem setReg_errpc : (s.setReg r v).errpc = s.errpc := rfl
@[simp] theorem setReg_irqEn : (s.setReg r v).irqEn = s.irqEn := rfl
@[simp] theorem setReg_irqPend : (s.setReg r v).irqPend = s.irqPend := rfl
@[simp] theorem setReg_retired : (s.setReg r v).retired = s.retired := rfl
@[simp] theorem setReg_curve : (s.setReg r v).curve = s.curve := rfl
@[simp] theorem setReg_key : (s.setReg r v).key = s.key := rfl
@[simp] theorem setReg_agenda : (s.setReg r v).agenda = s.agenda := rfl
@[simp] theorem setReg_readData : (s.setReg r v).readData = s.readData := rfl
@[simp] theorem setReg_reportRead : (s.setReg r v).reportRead = s.reportRead := rfl
@[simp] theorem setReg_draws : (s.setReg r v).draws = s.draws := rfl

/-! setVal -/

@[simp] theorem setVal_regs : (s.setVal r n).regs = s.regs.set r.val (toWord n) r.isLt := rfl
@[simp] theorem setVal_mem : (s.setVal r n).mem = s.mem := rfl
@[simp] theorem setVal_cpc : (s.setVal r n).cpc = s.cpc := rfl
@[simp] theorem setVal_busy : (s.setVal r n).busy = s.busy := rfl
@[simp] theorem setVal_done : (s.setVal r n).done = s.done := rfl
@[simp] theorem setVal_err : (s.setVal r n).err = s.err := rfl
@[simp] theorem setVal_qr : (s.setVal r n).qr = s.qr := rfl
@[simp] theorem setVal_hosterr : (s.setVal r n).hosterr = s.hosterr := rfl
@[simp] theorem setVal_errcode : (s.setVal r n).errcode = s.errcode := rfl
@[simp] theorem setVal_errpc : (s.setVal r n).errpc = s.errpc := rfl
@[simp] theorem setVal_irqEn : (s.setVal r n).irqEn = s.irqEn := rfl
@[simp] theorem setVal_irqPend : (s.setVal r n).irqPend = s.irqPend := rfl
@[simp] theorem setVal_retired : (s.setVal r n).retired = s.retired := rfl
@[simp] theorem setVal_curve : (s.setVal r n).curve = s.curve := rfl
@[simp] theorem setVal_key : (s.setVal r n).key = s.key := rfl
@[simp] theorem setVal_agenda : (s.setVal r n).agenda = s.agenda := rfl
@[simp] theorem setVal_readData : (s.setVal r n).readData = s.readData := rfl
@[simp] theorem setVal_reportRead : (s.setVal r n).reportRead = s.reportRead := rfl
@[simp] theorem setVal_draws : (s.setVal r n).draws = s.draws := rfl

/-! advance -/

@[simp] theorem advance_regs : (advance s).regs = s.regs := rfl
@[simp] theorem advance_mem : (advance s).mem = s.mem := rfl
@[simp] theorem advance_cpc : (advance s).cpc = s.cpc + 1 := rfl
@[simp] theorem advance_busy : (advance s).busy = s.busy := rfl
@[simp] theorem advance_done : (advance s).done = s.done := rfl
@[simp] theorem advance_err : (advance s).err = s.err := rfl
@[simp] theorem advance_qr : (advance s).qr = s.qr := rfl
@[simp] theorem advance_hosterr : (advance s).hosterr = s.hosterr := rfl
@[simp] theorem advance_errcode : (advance s).errcode = s.errcode := rfl
@[simp] theorem advance_errpc : (advance s).errpc = s.errpc := rfl
@[simp] theorem advance_irqEn : (advance s).irqEn = s.irqEn := rfl
@[simp] theorem advance_irqPend : (advance s).irqPend = s.irqPend := rfl
@[simp] theorem advance_retired : (advance s).retired = s.retired + 1 := rfl
@[simp] theorem advance_curve : (advance s).curve = s.curve := rfl
@[simp] theorem advance_key : (advance s).key = s.key := rfl
@[simp] theorem advance_agenda : (advance s).agenda = s.agenda := rfl
@[simp] theorem advance_readData : (advance s).readData = s.readData := rfl
@[simp] theorem advance_reportRead : (advance s).reportRead = s.reportRead := rfl
@[simp] theorem advance_draws : (advance s).draws = s.draws := rfl

/-! endRun -/

@[simp] theorem endRun_regs : (endRun s).regs = s.regs := rfl
@[simp] theorem endRun_mem : (endRun s).mem = s.mem := rfl
@[simp] theorem endRun_cpc : (endRun s).cpc = s.cpc := rfl
@[simp] theorem endRun_busy : (endRun s).busy = false := rfl
@[simp] theorem endRun_done : (endRun s).done = true := rfl
@[simp] theorem endRun_err : (endRun s).err = s.err := rfl
@[simp] theorem endRun_qr : (endRun s).qr = s.qr := rfl
@[simp] theorem endRun_hosterr : (endRun s).hosterr = s.hosterr := rfl
@[simp] theorem endRun_errcode : (endRun s).errcode = s.errcode := rfl
@[simp] theorem endRun_errpc : (endRun s).errpc = s.errpc := rfl
@[simp] theorem endRun_irqEn : (endRun s).irqEn = s.irqEn := rfl
@[simp] theorem endRun_irqPend : (endRun s).irqPend = { s.irqPend with done := true } := rfl
@[simp] theorem endRun_retired : (endRun s).retired = s.retired := rfl
@[simp] theorem endRun_curve : (endRun s).curve = s.curve := rfl
@[simp] theorem endRun_key : (endRun s).key = s.key := rfl
@[simp] theorem endRun_agenda : (endRun s).agenda = s.agenda := rfl
@[simp] theorem endRun_readData : (endRun s).readData = s.readData := rfl
@[simp] theorem endRun_reportRead : (endRun s).reportRead = s.reportRead := rfl
@[simp] theorem endRun_draws : (endRun s).draws = s.draws := rfl

/-! trap -/

@[simp] theorem trap_regs : (trap e s).regs = s.regs := rfl
@[simp] theorem trap_mem : (trap e s).mem = s.mem := rfl
@[simp] theorem trap_cpc : (trap e s).cpc = s.cpc := rfl
@[simp] theorem trap_busy : (trap e s).busy = false := rfl
@[simp] theorem trap_done : (trap e s).done = s.done := rfl
@[simp] theorem trap_err : (trap e s).err = true := rfl
@[simp] theorem trap_qr : (trap e s).qr = s.qr := rfl
@[simp] theorem trap_hosterr : (trap e s).hosterr = s.hosterr := rfl
@[simp] theorem trap_errcode : (trap e s).errcode = e := rfl
@[simp] theorem trap_errpc : (trap e s).errpc = s.cpc := rfl
@[simp] theorem trap_irqEn : (trap e s).irqEn = s.irqEn := rfl
@[simp] theorem trap_irqPend : (trap e s).irqPend = { s.irqPend with err := true } := rfl
@[simp] theorem trap_retired : (trap e s).retired = s.retired := rfl
@[simp] theorem trap_curve : (trap e s).curve = s.curve := rfl
@[simp] theorem trap_key : (trap e s).key = s.key := rfl
@[simp] theorem trap_agenda : (trap e s).agenda = s.agenda := rfl
@[simp] theorem trap_readData : (trap e s).readData = s.readData := rfl
@[simp] theorem trap_reportRead : (trap e s).reportRead = .none := rfl
@[simp] theorem trap_draws : (trap e s).draws = s.draws := rfl

/-! beginRun -/

@[simp] theorem beginRun_regs : (beginRun s).regs = s.regs := rfl
@[simp] theorem beginRun_mem : (beginRun s).mem = s.mem := rfl
@[simp] theorem beginRun_cpc : (beginRun s).cpc = s.cpc := rfl
@[simp] theorem beginRun_busy : (beginRun s).busy = true := rfl
@[simp] theorem beginRun_done : (beginRun s).done = false := rfl
@[simp] theorem beginRun_err : (beginRun s).err = false := rfl
@[simp] theorem beginRun_qr : (beginRun s).qr = s.qr := rfl
@[simp] theorem beginRun_hosterr : (beginRun s).hosterr = s.hosterr := rfl
@[simp] theorem beginRun_errcode : (beginRun s).errcode = .none := rfl
@[simp] theorem beginRun_errpc : (beginRun s).errpc = 0 := rfl
@[simp] theorem beginRun_irqEn : (beginRun s).irqEn = s.irqEn := rfl
@[simp] theorem beginRun_irqPend : (beginRun s).irqPend = s.irqPend := rfl
@[simp] theorem beginRun_retired : (beginRun s).retired = s.retired := rfl
@[simp] theorem beginRun_curve : (beginRun s).curve = s.curve := rfl
@[simp] theorem beginRun_key : (beginRun s).key = s.key := rfl
@[simp] theorem beginRun_agenda : (beginRun s).agenda = s.agenda := rfl
@[simp] theorem beginRun_readData : (beginRun s).readData = s.readData := rfl
@[simp] theorem beginRun_reportRead : (beginRun s).reportRead = s.reportRead := rfl
@[simp] theorem beginRun_draws : (beginRun s).draws = s.draws := rfl

/-! setHostErr -/

@[simp] theorem setHostErr_regs : (setHostErr s).regs = s.regs := rfl
@[simp] theorem setHostErr_mem : (setHostErr s).mem = s.mem := rfl
@[simp] theorem setHostErr_cpc : (setHostErr s).cpc = s.cpc := rfl
@[simp] theorem setHostErr_busy : (setHostErr s).busy = s.busy := rfl
@[simp] theorem setHostErr_done : (setHostErr s).done = s.done := rfl
@[simp] theorem setHostErr_err : (setHostErr s).err = s.err := rfl
@[simp] theorem setHostErr_qr : (setHostErr s).qr = s.qr := rfl
@[simp] theorem setHostErr_hosterr : (setHostErr s).hosterr = true := rfl
@[simp] theorem setHostErr_errcode : (setHostErr s).errcode = s.errcode := rfl
@[simp] theorem setHostErr_errpc : (setHostErr s).errpc = s.errpc := rfl
@[simp] theorem setHostErr_irqEn : (setHostErr s).irqEn = s.irqEn := rfl
@[simp] theorem setHostErr_irqPend : (setHostErr s).irqPend = s.irqPend := rfl
@[simp] theorem setHostErr_retired : (setHostErr s).retired = s.retired := rfl
@[simp] theorem setHostErr_curve : (setHostErr s).curve = s.curve := rfl
@[simp] theorem setHostErr_key : (setHostErr s).key = s.key := rfl
@[simp] theorem setHostErr_agenda : (setHostErr s).agenda = s.agenda := rfl
@[simp] theorem setHostErr_readData : (setHostErr s).readData = s.readData := rfl
@[simp] theorem setHostErr_reportRead : (setHostErr s).reportRead = s.reportRead := rfl
@[simp] theorem setHostErr_draws : (setHostErr s).draws = s.draws := rfl

/-! reply -/

@[simp] theorem reply_regs : (reply c s).regs = s.regs := rfl
@[simp] theorem reply_mem : (reply c s).mem = s.mem := rfl
@[simp] theorem reply_cpc : (reply c s).cpc = s.cpc := rfl
@[simp] theorem reply_busy : (reply c s).busy = s.busy := rfl
@[simp] theorem reply_done : (reply c s).done = s.done := rfl
@[simp] theorem reply_err : (reply c s).err = s.err := rfl
@[simp] theorem reply_qr : (reply c s).qr = s.qr := rfl
@[simp] theorem reply_hosterr : (reply c s).hosterr = s.hosterr := rfl
@[simp] theorem reply_errcode : (reply c s).errcode = s.errcode := rfl
@[simp] theorem reply_errpc : (reply c s).errpc = s.errpc := rfl
@[simp] theorem reply_irqEn : (reply c s).irqEn = s.irqEn := rfl
@[simp] theorem reply_irqPend : (reply c s).irqPend = s.irqPend := rfl
@[simp] theorem reply_retired : (reply c s).retired = s.retired := rfl
@[simp] theorem reply_curve : (reply c s).curve = s.curve := rfl
@[simp] theorem reply_key : (reply c s).key = s.key := rfl
@[simp] theorem reply_agenda : (reply c s).agenda = s.agenda := rfl
@[simp] theorem reply_readData : (reply c s).readData = c := rfl
@[simp] theorem reply_reportRead : (reply c s).reportRead = s.reportRead := rfl
@[simp] theorem reply_draws : (reply c s).draws = s.draws := rfl

/-! replyFree -/

@[simp] theorem replyFree_regs : (replyFree s).regs = s.regs := rfl
@[simp] theorem replyFree_mem : (replyFree s).mem = s.mem := rfl
@[simp] theorem replyFree_cpc : (replyFree s).cpc = s.cpc := rfl
@[simp] theorem replyFree_busy : (replyFree s).busy = s.busy := rfl
@[simp] theorem replyFree_done : (replyFree s).done = s.done := rfl
@[simp] theorem replyFree_err : (replyFree s).err = s.err := rfl
@[simp] theorem replyFree_qr : (replyFree s).qr = s.qr := rfl
@[simp] theorem replyFree_hosterr : (replyFree s).hosterr = s.hosterr := rfl
@[simp] theorem replyFree_errcode : (replyFree s).errcode = s.errcode := rfl
@[simp] theorem replyFree_errpc : (replyFree s).errpc = s.errpc := rfl
@[simp] theorem replyFree_irqEn : (replyFree s).irqEn = s.irqEn := rfl
@[simp] theorem replyFree_irqPend : (replyFree s).irqPend = s.irqPend := rfl
@[simp] theorem replyFree_retired : (replyFree s).retired = s.retired := rfl
@[simp] theorem replyFree_curve : (replyFree s).curve = s.curve := rfl
@[simp] theorem replyFree_key : (replyFree s).key = s.key := rfl
@[simp] theorem replyFree_agenda : (replyFree s).agenda = s.agenda := rfl
@[simp] theorem replyFree_readData : (replyFree s).readData = Config.freeBus s.draws := rfl
@[simp] theorem replyFree_reportRead : (replyFree s).reportRead = s.reportRead := rfl
@[simp] theorem replyFree_draws : (replyFree s).draws = s.draws + 1 := rfl

/-! The register file. -/

@[simp] theorem reg_advance : (advance s).reg r = s.reg r := rfl
@[simp] theorem val_advance : (advance s).val r = s.val r := rfl
@[simp] theorem reg_endRun : (endRun s).reg r = s.reg r := rfl
@[simp] theorem val_endRun : (endRun s).val r = s.val r := rfl
@[simp] theorem reg_trap : (trap e s).reg r = s.reg r := rfl
@[simp] theorem val_trap : (trap e s).val r = s.val r := rfl
@[simp] theorem reg_beginRun : (beginRun s).reg r = s.reg r := rfl
@[simp] theorem val_beginRun : (beginRun s).val r = s.val r := rfl
@[simp] theorem reg_setHostErr : (setHostErr s).reg r = s.reg r := rfl
@[simp] theorem val_setHostErr : (setHostErr s).val r = s.val r := rfl
@[simp] theorem reg_reply : (reply c s).reg r = s.reg r := rfl
@[simp] theorem val_reply : (reply c s).val r = s.val r := rfl
@[simp] theorem reg_replyFree : (replyFree s).reg r = s.reg r := rfl
@[simp] theorem val_replyFree : (replyFree s).val r = s.val r := rfl

end fields

variable {w nreg ncmd : Nat}

@[simp] theorem reg_setReg_same (s : State.Of w nreg ncmd) (r : Reg nreg) (v : Word w) : (s.setReg r v).reg r = v := by
  simp [State.Of.reg]

theorem reg_setReg_of_ne (s : State.Of w nreg ncmd) {r q : Reg nreg} (v : Word w) (h : q ≠ r) :
    (s.setReg r v).reg q = s.reg q := by
  have : r.val ≠ q.val := fun e => h (Fin.ext e.symm)
  simp [State.Of.reg, this]

theorem toNat_toWord {n : Nat} (h : n < 2 ^ w) : (toWord n : Word w).toNat = n := by
  rw [toWord, BitVec.toNat_ofNat, Nat.mod_eq_of_lt h]

theorem val_lt (s : State.Of w nreg ncmd) (r : Reg nreg) : s.val r < 2 ^ w := (s.reg r).isLt

@[simp] theorem reg_setVal_same (s : State.Of w nreg ncmd) (r : Reg nreg) (n : Nat) : (s.setVal r n).reg r = toWord n :=
  reg_setReg_same s r _

theorem val_setVal_same (s : State.Of w nreg ncmd) (r : Reg nreg) {n : Nat} (h : n < 2 ^ w) :
    (s.setVal r n).val r = n := by
  rw [State.Of.val, reg_setVal_same, toNat_toWord h]

theorem reg_setVal_of_ne (s : State.Of w nreg ncmd) {r q : Reg nreg} (n : Nat) (h : q ≠ r) :
    (s.setVal r n).reg q = s.reg q :=
  reg_setReg_of_ne s _ h

/-- The two registers of a pair differ, where there are two at all. -/
theorem pairSnd_ne_of_two_le (r : Reg nreg) (h : 2 ≤ nreg) : pairSnd r ≠ r := by
  intro e
  have hv : (r.val + 1) % nreg = r.val := congrArg Fin.val e
  have hr := r.isLt
  rcases Nat.lt_or_ge (r.val + 1) nreg with hlt | hge
  · rw [Nat.mod_eq_of_lt hlt] at hv
    omega
  · rw [show r.val + 1 = nreg by omega, Nat.mod_self] at hv
    omega

/-- The two registers of a pair differ. -/
theorem pairSnd_ne (r : Reg) : pairSnd r ≠ r := pairSnd_ne_of_two_le r (by decide)

/-- The pair of an even register is it and the one numbered next (R121). -/
theorem pairSnd_val {r : Reg nreg} (hr : evenReg r = true) (h : nreg % 2 = 0) : (pairSnd r).val = r.val + 1 := by
  have hlt := r.isLt
  have he : r.val % 2 = 0 := by simpa [evenReg] using hr
  exact Nat.mod_eq_of_lt (by omega)

end Sys2Proof.Machine
end

