-- ==== Sys2Proof/Laws/Memory.lean ====
section
/-! SUPPORT. The laws of command memory: a read after a write, by byte and by word, and that every operation keeps the
canonical form. -/

namespace Sys2Proof.Machine

theorem memRead_memWrite_same (m : Memory) (a : Nat) (v : Byte) : memRead (memWrite m a v) a = some v := by
  induction m with
  | nil => simp [memWrite, memRead]
  | cons c rest ih =>
    obtain ⟨k, b⟩ := c
    simp only [memWrite]
    split_ifs with h₁ h₂
    · simp [memRead]
    · simp [memRead]
    · simp [memRead, Ne.symm h₂, ih]

theorem memRead_memWrite_of_ne (m : Memory) {a x : Nat} (v : Byte) (h : x ≠ a) :
    memRead (memWrite m a v) x = memRead m x := by
  induction m with
  | nil => simp [memWrite, memRead, Ne.symm h]
  | cons c rest ih =>
    obtain ⟨k, b⟩ := c
    simp only [memWrite]
    split_ifs with h₁ h₂
    · simp [memRead, Ne.symm h]
    · subst h₂; simp [memRead, Ne.symm h]
    · simp [memRead, ih]

/-- A byte listed after a write was listed before or is the one written. -/
theorem mem_of_mem_memWrite {m : Memory} {a : Nat} {v : Byte} {c : Host.Cell} (h : c ∈ memWrite m a v) :
    c = (a, v) ∨ c ∈ m := by
  induction m with
  | nil => simpa [memWrite] using h
  | cons d rest ih =>
    obtain ⟨k, b⟩ := d
    simp only [memWrite] at h
    split_ifs at h with h₁ h₂
    · simpa using h
    · rcases List.mem_cons.1 h with h | h
      · exact .inl h
      · exact .inr (List.mem_cons_of_mem _ h)
    · rcases List.mem_cons.1 h with h | h
      · exact .inr (h ▸ List.mem_cons_self ..)
      · exact (ih h).imp id (List.mem_cons_of_mem _)

/-- A write keeps the canonical form. -/
theorem memWrite_wf {m : Memory} (a : Nat) (v : Byte) (h : m.wf) : (memWrite m a v).wf := by
  induction m with
  | nil => simp [memWrite, Memory.wf]
  | cons d rest ih =>
    obtain ⟨k, b⟩ := d
    obtain ⟨hk, hr⟩ := List.pairwise_cons.1 h
    simp only [memWrite]
    split_ifs with h₁ h₂
    · refine List.pairwise_cons.2 ⟨fun c hc => ?_, h⟩
      rcases List.mem_cons.1 hc with rfl | hc
      · exact h₁
      · exact lt_trans h₁ (hk c hc)
    · subst h₂; exact List.pairwise_cons.2 ⟨hk, hr⟩
    · refine List.pairwise_cons.2 ⟨fun c hc => ?_, ih hr⟩
      rcases mem_of_mem_memWrite hc with rfl | hc
      · show k < a
        omega
      · exact hk c hc

theorem writeCmd_wf {m : Memory} (k : Nat) (w : CmdWord) (h : m.wf) : (writeCmd m k w).wf :=
  memWrite_wf _ _ (memWrite_wf _ _ (memWrite_wf _ _ (memWrite_wf _ _ h)))

/-- A byte listed after a word write was listed before or is one of the word's four. -/
theorem mem_of_mem_writeCmd {m : Memory} {k : Nat} {w : CmdWord} {c : Host.Cell} (h : c ∈ writeCmd m k w) :
    (∃ j, j < 4 ∧ c = (cmdAddr k j, byteOfWord w j)) ∨ c ∈ m := by
  unfold writeCmd at h
  rcases mem_of_mem_memWrite h with h | h
  · exact .inl ⟨3, by omega, h⟩
  rcases mem_of_mem_memWrite h with h | h
  · exact .inl ⟨2, by omega, h⟩
  rcases mem_of_mem_memWrite h with h | h
  · exact .inl ⟨1, by omega, h⟩
  rcases mem_of_mem_memWrite h with h | h
  · exact .inl ⟨0, by omega, h⟩
  · exact .inr h

/-- A byte outside the four of word `k` reads as before a write of word `k`. -/
theorem memRead_writeCmd_of_outside (m : Memory) (k : Nat) (w : CmdWord) {a : Nat}
    (h : a < cmdAddr k 0 ∨ cmdAddr k 3 < a) : memRead (writeCmd m k w) a = memRead m a := by
  unfold cmdAddr at h
  unfold writeCmd
  rw [memRead_memWrite_of_ne, memRead_memWrite_of_ne, memRead_memWrite_of_ne, memRead_memWrite_of_ne] <;>
    unfold cmdAddr <;> omega

/-- Byte `j` of word `k` after a write of it (R86). -/
theorem memRead_writeCmd_same (m : Memory) (k : Nat) (w : CmdWord) {j : Nat} (h : j < 4) :
    memRead (writeCmd m k w) (cmdAddr k j) = some (byteOfWord w j) := by
  unfold writeCmd
  have hne : ∀ {i : Nat}, j ≠ i → cmdAddr k j ≠ cmdAddr k i := by unfold cmdAddr; omega
  rcases (by omega : j = 0 ∨ j = 1 ∨ j = 2 ∨ j = 3) with rfl | rfl | rfl | rfl
  · rw [memRead_memWrite_of_ne _ _ (hne (by omega)), memRead_memWrite_of_ne _ _ (hne (by omega)),
      memRead_memWrite_of_ne _ _ (hne (by omega)), memRead_memWrite_same]
  · rw [memRead_memWrite_of_ne _ _ (hne (by omega)), memRead_memWrite_of_ne _ _ (hne (by omega)),
      memRead_memWrite_same]
  · rw [memRead_memWrite_of_ne _ _ (hne (by omega)), memRead_memWrite_same]
  · rw [memRead_memWrite_same]

/-- A word is its four bytes. -/
theorem wordOfBytes_byteOfWord (w : CmdWord) :
    wordOfBytes (byteOfWord w 0) (byteOfWord w 1) (byteOfWord w 2) (byteOfWord w 3) = w := by
  apply BitVec.eq_of_getLsbD_eq
  intro i hi
  simp only [wordOfBytes, byteOfWord, BitVec.getLsbD_append, BitVec.getLsbD_extractLsb']
  by_cases h₁ : i < 8
  · simp [h₁]
  by_cases h₂ : i - 8 < 8
  · simp [h₁, h₂, show 8 + (i - 8) = i by omega]
  by_cases h₃ : i - 8 - 8 < 8
  · simp [h₁, h₂, h₃, show 16 + (i - 8 - 8) = i by omega]
  · simp [h₁, h₂, h₃, show i - 8 - 8 - 8 < 8 by omega, show 24 + (i - 8 - 8 - 8) = i by omega]

theorem readCmd_writeCmd_same (m : Memory) (k : Nat) (w : CmdWord) : readCmd (writeCmd m k w) k = some w := by
  unfold readCmd
  rw [memRead_writeCmd_same m k w (by omega : 0 < 4), memRead_writeCmd_same m k w (by omega : 1 < 4),
    memRead_writeCmd_same m k w (by omega : 2 < 4), memRead_writeCmd_same m k w (by omega : 3 < 4)]
  simp [wordOfBytes_byteOfWord]

theorem readCmd_writeCmd_of_ne (m : Memory) {k q : Nat} (w : CmdWord) (h : q ≠ k) :
    readCmd (writeCmd m k w) q = readCmd m q := by
  have hout : ∀ j, j < 4 → memRead (writeCmd m k w) (cmdAddr q j) = memRead m (cmdAddr q j) := fun j hj =>
    memRead_writeCmd_of_outside m k w (by unfold cmdAddr; omega)
  unfold readCmd
  rw [hout 0 (by omega), hout 1 (by omega), hout 2 (by omega), hout 3 (by omega)]

/-- Memories that read alike byte by byte read alike word by word. -/
theorem readCmd_congr {m n : Memory} (h : ∀ a, memRead m a = memRead n a) (k : Nat) : readCmd m k = readCmd n k := by
  unfold readCmd
  simp [h]

end Sys2Proof.Machine
end

