-- ==== Sys2Proof/Laws/Ops.lean ====
section
/-! SUPPORT. What each shared operation can do, once: the two-phase end of a command, the trap, the sequencer's turn and
the step, and the point operands. -/

namespace Sys2Proof.Machine

variable {w nreg ncmd : Nat}

/-- A command's two phases end in its commit or in its trap, and in nothing else (R19, R305). -/
theorem finish_next {s t : State.Of w nreg ncmd} {r : Except ErrorCode (State.Of w nreg ncmd)} :
    finish s r = .next t ↔ (∃ u, r = .ok u ∧ t = advance u) ∨ ∃ e, r = .error e ∧ t = trap e s := by
  cases r <;> simp [finish, eq_comm]

@[simp] theorem finish_ok (s u : State.Of w nreg ncmd) : finish s (.ok u) = .next (advance u) := rfl

@[simp] theorem finish_error (s : State.Of w nreg ncmd) (e : ErrorCode) : finish s (.error e) = .next (trap e s) := rfl

/-- The trap is R304's. -/
theorem trap_traps (e : ErrorCode) (s : State.Of w nreg ncmd) : Traps e s (trap e s) := by
  constructor <;> first | rfl | (intro _; rfl) | exact ⟨rfl, rfl, rfl⟩

/-- A state with the same host side as `s`, advanced from `s`'s pointer and counter, is a commit. -/
theorem advance_commits {s u : State.Of w nreg ncmd} (h : SameHostSide s u) (hc : u.cpc = s.cpc)
    (hr : u.retired = s.retired) : Commits s (advance u) where
  toSameHostSide := { h with mem := h.mem }
  cpc := by simp [hc]
  retired := by simp [hr]

/-- Register writes leave the host's side. -/
theorem setReg_sameHostSide (s : State.Of w nreg ncmd) (r : Reg nreg) (v : Word w) : SameHostSide s (s.setReg r v) := by
  constructor <;> first | rfl | intro _; rfl

theorem writePoint_sameHostSide (s : State.Of w nreg ncmd) (r : Reg nreg) (p : Point) :
    SameHostSide s (writePoint s r p) := by
  cases p <;> (constructor <;> first | rfl | intro _; rfl)

@[simp] theorem writePoint_cpc (s : State.Of w nreg ncmd) (r : Reg nreg) (p : Point) :
    (writePoint s r p).cpc = s.cpc := by
  cases p <;> rfl

@[simp] theorem writePoint_retired (s : State.Of w nreg ncmd) (r : Reg nreg) (p : Point) :
    (writePoint s r p).retired = s.retired := by
  cases p <;> rfl

theorem writePoint_sameUnits (s : State.Of w nreg ncmd) (r : Reg nreg) (p : Point) :
    SameUnits s (writePoint s r p) := by
  cases p <;> exact ⟨rfl, rfl, rfl⟩

/-- A point write leaves every register outside its pair. -/
theorem writePoint_sameRegs (s : State.Of w nreg ncmd) (r : Reg nreg) (p : Point) :
    SameRegsButPair r s (writePoint s r p) := by
  intro q h₁ h₂
  cases p with
  | inf => exact (reg_setReg_of_ne _ _ h₂).trans (reg_setReg_of_ne _ _ h₁)
  | affine x y => exact (reg_setVal_of_ne _ _ h₂).trans (reg_setVal_of_ne _ _ h₁)

/-- A point written to a pair is the point the pair holds, where its coordinates fit the registers (R214). -/
theorem writePoint_holds (s : State.Of w nreg ncmd) (r : Reg nreg) {p : Point} {n : Nat} (hr : 2 ≤ nreg) (hn :
    n ≤ 2 ^ w)
    (h : Reduced n p) : HoldsPoint (writePoint s r p) r p := by
  have hne := pairSnd_ne_of_two_le r hr
  cases p with
  | inf => exact ⟨(reg_setReg_of_ne _ _ hne.symm).trans (reg_setReg_same ..), reg_setReg_same ..⟩
  | affine x y =>
    obtain ⟨hx, hy⟩ := h
    refine ⟨?_, val_setVal_same _ _ (lt_of_lt_of_le hy hn)⟩
    show ((State.Of.setVal (s.setVal r x) (pairSnd r) y).reg r).toNat = x
    rw [reg_setVal_of_ne _ _ hne.symm]
    exact val_setVal_same _ _ (lt_of_lt_of_le hx hn)

/-- What `readPoint` answers is below P or INF (R214). -/
theorem readPoint_reduced {s : State.Of w nreg ncmd} {r : Reg nreg} {p : Point} (h : readPoint s r = .ok p) :
    Reduced s.prime p := by
  unfold readPoint at h
  split_ifs at h with h₁ h₂
  · cases h; trivial
  · cases h
    exact ⟨by omega, by omega⟩

/-- `readPoint` reads a register pair and the prime, nothing else. -/
theorem readPoint_congr {s t : State.Of w nreg ncmd} (r : Reg nreg) (h₁ : t.reg r = s.reg r)
    (h₂ : t.reg (pairSnd r) = s.reg (pairSnd r)) (hc : t.curve = s.curve) : readPoint t r = readPoint s r := by
  unfold readPoint State.Of.val State.Of.prime
  rw [h₁, h₂, hc]

/-- The ways a turn of the sequencer ends (R157). -/
theorem sequencerTurn_next {execute : Instr → State.Of w nreg ncmd → Result w nreg ncmd} {s t : State.Of w nreg ncmd}
    (h : sequencerTurn execute s = .next t) :
    (s.busy = false ∧ t = s) ∨
    (s.busy = true ∧ ncmd ≤ s.cpc.toNat ∧ t = trap .pcRange s) ∨
    (∃ w e, s.busy = true ∧ readCmd s.mem s.cpc.toNat = some w ∧ decode w = .error e ∧ t = trap .illegal s) ∨
    (∃ w i, s.busy = true ∧ s.cpc.toNat < ncmd ∧ readCmd s.mem s.cpc.toNat = some w ∧ decode w = .ok i ∧
      execute i s = .next t) := by
  unfold sequencerTurn at h
  split_ifs at h with hb hc
  · cases h; exact .inr (.inl ⟨hb, hc, rfl⟩)
  · split at h
    · cases h
    · rename_i w hw
      split at h
      · rename_i e hd
        cases h
        exact .inr (.inr (.inl ⟨w, e, hb, hw, hd, rfl⟩))
      · rename_i i hd
        exact .inr (.inr (.inr ⟨w, i, hb, by omega, hw, hd, h⟩))
  · cases h; exact .inl ⟨by simpa using hb, rfl⟩

/-- The turn of the sequencer on a command that is there (R157). -/
theorem sequencerTurn_run {execute : Instr → State.Of w nreg ncmd → Result w nreg ncmd} {s : State.Of w nreg ncmd}
    {w : CmdWord} {i : Instr}
    (hb : s.busy = true) (hc : s.cpc.toNat < ncmd) (hw : readCmd s.mem s.cpc.toNat = some w)
    (hd : decode w = .ok i) : sequencerTurn execute s = execute i s := by
  have : ¬ncmd ≤ s.cpc.toNat := by omega
  simp [sequencerTurn, hb, this, hw, hd]

/-- The three kinds of step (R22, R355): a turn of the sequencer, a host transaction that loses no unread report, a
reset. -/
theorem step_next {s t : State} (h : step s = .next t) :
    (nextIsSequencer s ∧ sequencerTurn exec (takenTurn s) = .next t) ∨
    (∃ a rest, s.agenda = .bus a :: rest ∧ losesReport (takenTurn s) a = false ∧ t = serve (takenTurn s) a) ∨
    (∃ o rest, s.agenda = .reset o :: rest ∧ t = serveReset (takenTurn s) o) := by
  unfold step nextTurn at h
  split at h
  · rename_i hnil
    refine .inl ⟨.inl hnil, ?_⟩
    have : takenTurn s = s := by
      unfold takenTurn
      rw [hnil]
      show { s with agenda := [] } = s
      rw [← hnil]
    rwa [this]
  · rename_i turn rest hcons
    have htake : takenTurn s = { s with agenda := rest } := by
      unfold takenTurn
      rw [hcons]
      rfl
    rw [htake]
    cases turn with
    | sequencer => exact .inl ⟨.inr ⟨rest, hcons⟩, h⟩
    | bus a =>
      simp only [takeTurn] at h
      split_ifs at h with hl
      cases h
      exact .inr (.inl ⟨a, rest, hcons, by simpa using hl, rfl⟩)
    | reset o => cases h; exact .inr (.inr ⟨o, rest, hcons, rfl⟩)

end Sys2Proof.Machine
end

