-- ==== Sys2Proof/Laws/Curve.lean ====
section
/-! SUPPORT. What the checks and the point arithmetic can answer, once: the operand checks, the slope, ecadd and ecmul
(42_elliptic_curve.md rules R214, R215, R219, R224; 41_modular.md rule R180), and the writes of a register and of a
pair. -/

namespace Sys2Proof.Machine

variable {w nreg ncmd : Nat}

/-! Checks. -/

theorem checkModulus_ok {m : Nat} (h : GoodModulus m) : checkModulus m = .ok () := by
  unfold checkModulus GoodModulus at *
  rw [if_neg]
  omega

theorem checkModulus_error {m : Nat} (h : ¬GoodModulus m) : checkModulus m = .error .badModulus := by
  unfold checkModulus GoodModulus at *
  rw [if_pos]
  omega

theorem checkCurve_ok {s : State.Of w nreg ncmd} (h : s.curve.id ≠ .none) : checkCurve s = .ok () := if_neg h

theorem prime_lt (s : State.Of w nreg ncmd) : s.prime < 2 ^ w := s.curve.cp.isLt

/-- The pair of an accepted point reads as that point. -/
theorem readPoint_ok {s : State.Of w nreg ncmd} {r : Reg nreg} {p : Point} (h : ReadsPoint s r p) :
    readPoint s r = .ok p := by
  obtain ⟨hold, hred⟩ := h
  have hp := prime_lt s
  unfold readPoint
  cases p with
  | inf => exact if_pos hold
  | affine x y =>
    obtain ⟨rfl, rfl⟩ := hold
    obtain ⟨hx, hy⟩ := hred
    rw [if_neg, if_neg]
    · omega
    · rintro ⟨hones, -⟩
      have : s.val r = 2 ^ w - 1 := by
        unfold State.Of.val
        rw [hones, Config.ones, BitVec.toNat_allOnes]
      omega

/-- A pair that is no point raises E_BAD_POINT. -/
theorem readPoint_error {s : State.Of w nreg ncmd} {r : Reg nreg} (h : BadPair s r) :
    readPoint s r = .error .badPoint := by
  unfold readPoint
  rw [if_neg h.1, if_pos h.2]

/-! Writes. -/

/-- The commit of one register write. -/
theorem writesReg_setReg (s : State.Of w nreg ncmd) (rd : Reg nreg) (v : Word w) :
    WritesReg rd v s (advance (s.setReg rd v)) where
  toCommits := advance_commits (setReg_sameHostSide ..) rfl rfl
  toSameUnits := ⟨rfl, rfl, rfl⟩
  result := by simp
  others := fun _ h => reg_setReg_of_ne _ _ h

/-- The commit of one point write. -/
theorem writesPoint_writePoint {s : State.Of w nreg ncmd} {r : Reg nreg} {p : Point} (hr : 2 ≤ nreg)
    (h : Reduced s.prime p) :
    WritesPoint r p s (advance (writePoint s r p)) where
  toCommits := advance_commits (writePoint_sameHostSide ..) (by simp) (by simp)
  toSameUnits := by cases p <;> exact ⟨rfl, rfl, rfl⟩
  result := by
    have hold := writePoint_holds s r hr (prime_lt s).le h
    cases p <;> exact hold
  others := fun q h₁ h₂ => (by simp : _ = _).trans (writePoint_sameRegs s r p q h₁ h₂)

/-! Residues. -/

theorem imod_sub_nat {p y : Nat} (hy : y < p) : imod ((p : Int) - y) p = (p - y) % p := by
  unfold imod
  rw [show (p : Int) - y = ((p - y : Nat) : Int) by omega, ← Int.natCast_emod]
  rfl

/-- Case (b) of R219: opposite ordinates are those whose sum is 0 modulo p. -/
theorem eq_imod_sub_iff {p y₁ y₂ : Nat} (h₁ : y₁ < p) (h₂ : y₂ < p) :
    y₁ = imod ((p : Int) - y₂) p ↔ (y₁ + y₂) % p = 0 := by
  rw [imod_sub_nat h₂]
  rcases Nat.eq_zero_or_pos y₂ with rfl | hpos
  · simp [Nat.mod_eq_of_lt h₁]
  rw [Nat.mod_eq_of_lt (by omega)]
  constructor
  · rintro rfl
    rw [Nat.sub_add_cancel h₂.le, Nat.mod_self]
  · intro h
    rcases Nat.lt_or_ge (y₁ + y₂) p with hlt | hge
    · rw [Nat.mod_eq_of_lt hlt] at h
      omega
    · rw [Nat.mod_eq_sub_mod hge, Nat.mod_eq_of_lt (by omega)] at h
      omega

/-- The greatest common divisor with the modulus depends on the residue only. -/
theorem gcd_imod (z : Int) {p : Nat} (h : 0 < p) : Nat.gcd (imod z p % p) p = Int.gcd z p := by
  rw [Nat.mod_eq_of_lt (imod_lt z h)]
  show Int.gcd (imod z p : Int) p = Int.gcd z p
  rw [← Int.gcd_emod (imod z p : Int), ← Int.gcd_emod z, imod_modEq z h]

/-! The slope (R219). -/

theorem ecSlope_ok {p num den : Nat} (h : Nat.gcd (den % p) p = 1) :
    ecSlope p num den = .ok (num * invMod den p % p) := by
  unfold ecSlope checkInvertible
  rw [if_neg (by simpa using h)]
  rfl

theorem ecSlope_error {p num den : Nat} (h : Nat.gcd (den % p) p ≠ 1) : ecSlope p num den = .error .notInvertible := by
  unfold ecSlope checkInvertible
  rw [if_pos h]
  rfl

theorem eq_notInvertible_of_ecSlope {p num den : Nat} {e : ErrorCode} (h : ecSlope p num den = .error e) :
    e = .notInvertible := by
  by_cases hg : Nat.gcd (den % p) p = 1
  · rw [ecSlope_ok hg] at h; cases h
  · rw [ecSlope_error hg] at h; cases h; rfl

/-- The slope times its denominator is its numerator. -/
theorem slope_mul_den {p num den : Nat} (hp : 1 < p) (h : Nat.gcd (den % p) p = 1) :
    ((num * invMod den p % p : Nat) : Int) * den ≡ num [ZMOD p] := by
  have hinv : den * invMod den p ≡ 1 [MOD p] := by rw [Nat.ModEq, mul_invMod den p hp h, Nat.mod_eq_of_lt hp]
  have key : num * invMod den p % p * den ≡ num [MOD p] :=
    calc num * invMod den p % p * den ≡ num * invMod den p * den [MOD p] := (Nat.mod_modEq _ _).mul_right _
      _ = num * (den * invMod den p) := by ring
      _ ≡ num * 1 [MOD p] := hinv.mul_left _
      _ = num := mul_one _
  exact_mod_cast Int.natCast_modEq_iff.2 key

/-! Point addition and multiplication: the only error, and reduced results. -/

theorem eq_notInvertible_of_ecAdd {p a : Nat} {p₁ p₂ : Point} {e : ErrorCode} (h : ecAdd p a p₁ p₂ = .error e) :
    e = .notInvertible := by
  unfold ecAdd at h
  split at h
  · cases h
  · cases h
  · split_ifs at h
    · simp only [bind, Except.bind] at h
      split at h
      · rename_i hs; cases h; exact eq_notInvertible_of_ecSlope hs
      · cases h
    · simp only [bind, Except.bind] at h
      split at h
      · rename_i hs; cases h; exact eq_notInvertible_of_ecSlope hs
      · cases h

theorem ecAdd_reduced {p a : Nat} {p₁ p₂ r : Point} (h₁ : Reduced p p₁) (h₂ : Reduced p p₂)
    (h : ecAdd p a p₁ p₂ = .ok r) : Reduced p r := by
  unfold ecAdd at h
  split at h
  · cases h; exact h₂
  · cases h; exact h₁
  · have hpos : 0 < p := Nat.zero_lt_of_lt h₁.1
    split_ifs at h
    · cases h; trivial
    · simp only [bind, Except.bind] at h
      split at h
      · cases h
      · cases h; exact ⟨imod_lt _ hpos, imod_lt _ hpos⟩
    · simp only [bind, Except.bind] at h
      split at h
      · cases h
      · cases h; exact ⟨imod_lt _ hpos, imod_lt _ hpos⟩

theorem ecNeg_reduced {p : Nat} {p₁ : Point} (h : Reduced p p₁) : Reduced p (ecNeg p p₁) := by
  cases p₁ with
  | inf => trivial
  | affine x y => exact ⟨h.1, imod_lt _ (Nat.zero_lt_of_lt h.1)⟩

theorem ecMulLoop_spec {p a k : Nat} {p₁ : Point} (i : Nat) (r : Point) :
    (∀ e, ecMulLoop p a p₁ k i r = .error e → e = .notInvertible) ∧
    (∀ q, Reduced p p₁ → Reduced p r → ecMulLoop p a p₁ k i r = .ok q → Reduced p q) := by
  induction i generalizing r with
  | zero =>
    refine ⟨fun e h => (by cases h), fun q _ hr h => ?_⟩
    cases h
    exact hr
  | succ i ih =>
    simp only [ecMulLoop, bind, Except.bind]
    cases hd : ecAdd p a r r with
    | error e =>
      refine ⟨fun e' h => ?_, fun q _ _ h => (by cases h)⟩
      cases h
      exact eq_notInvertible_of_ecAdd hd
    | ok d =>
      dsimp only
      cases hb : ecAddBit p a p₁ (k.testBit i) d with
      | error e =>
        dsimp only
        refine ⟨fun e' h => ?_, fun q _ _ h => (by cases h)⟩
        cases h
        unfold ecAddBit at hb
        split_ifs at hb
        exact eq_notInvertible_of_ecAdd hb
      | ok d' =>
        dsimp only
        refine ⟨(ih d').1, fun q hp hr h => (ih d').2 q hp ?_ h⟩
        unfold ecAddBit at hb
        split_ifs at hb
        · exact ecAdd_reduced (ecAdd_reduced hr hr hd) hp hb
        · cases hb
          exact ecAdd_reduced hr hr hd

theorem eq_notInvertible_of_ecMul {p a k : Nat} {p₁ : Point} {neg : Bool} {e : ErrorCode}
    (h : ecMul p a p₁ k neg = .error e) : e = .notInvertible := by
  simp only [ecMul, bind, Except.bind] at h
  split at h
  · rename_i hs; cases h; exact (ecMulLoop_spec _ _).1 _ hs
  · cases h

theorem ecMul_reduced {p a k : Nat} {p₁ r : Point} {neg : Bool} (hp : Reduced p p₁)
    (h : ecMul p a p₁ k neg = .ok r) : Reduced p r := by
  simp only [ecMul, bind, Except.bind] at h
  split at h
  · cases h
  · rename_i hs
    cases h
    have hred := (ecMulLoop_spec _ _).2 _ hp (show Reduced p .inf from trivial) hs
    split_ifs
    · exact ecNeg_reduced hred
    · exact hred

theorem ecMul_zero {p a : Nat} {p₁ : Point} {neg : Bool} : ecMul p a p₁ 0 neg = .ok .inf := by cases neg <;> rfl

theorem ecMulLoop_inf {p a k : Nat} (i : Nat) : ecMulLoop p a .inf k i .inf = .ok .inf := by
  induction i with
  | zero => rfl
  | succ i ih =>
    simp only [ecMulLoop, bind, Except.bind, ecAdd, ecAddBit, ite_self]
    exact ih

theorem ecMul_inf {p a k : Nat} {neg : Bool} : ecMul p a .inf k neg = .ok .inf := by
  simp only [ecMul, ecMulLoop_inf]
  cases neg <;> rfl

theorem ecMul_one {p a : Nat} {p₁ : Point} {neg : Bool} :
    ecMul p a p₁ 1 neg = .ok (if neg then ecNeg p p₁ else p₁) := by
  have hb : bitlen 1 = 1 := by decide
  simp only [ecMul, hb, ecMulLoop, ecAdd, ecAddBit, bind, Except.bind]
  cases p₁ <;> rfl

end Sys2Proof.Machine
end

