-- ==== Sys2Proof/Laws/Encoding.lean ====
section
/-! SUPPORT. The fields of a packed word, and a word as its fields: what the round trips of the decoder and encoder go
through. -/

namespace Sys2Proof

variable (op : BitVec 6) (rd ra rb rm : RegField) (fn : BitVec 10) (imm : BitVec 16)

/-! Register numbers and the fields that name them (R121). -/

@[simp] theorem regOfField_fieldOfReg (r : Reg) : regOfField (fieldOfReg r) = r := rfl

@[simp] theorem fieldOfReg_regOfField (f : RegField) : fieldOfReg (regOfField f) = f := rfl

/-! Packed words. -/

/-- A bit of a format R word is a bit of the field it lies in (R120). -/
theorem packR_getLsbD (i : Nat) : (packR op rd ra rb rm fn).getLsbD i =
    if i < 10 then fn.getLsbD i else if i < 14 then rm.getLsbD (i - 10) else if i < 18 then rb.getLsbD (i - 14)
    else if i < 22 then ra.getLsbD (i - 18) else if i < 26 then rd.getLsbD (i - 22) else op.getLsbD (i - 26) := by
  simp only [packR, BitVec.getLsbD_append, Nat.sub_sub]
  split_ifs <;> first | omega | rfl

@[simp] theorem opField_packR : opField (packR op rd ra rb rm fn) = op := by
  refine BitVec.eq_of_getLsbD_eq fun i hi => ?_
  simp only [opField, BitVec.getLsbD_extractLsb', packR_getLsbD, hi, decide_true, Bool.true_and]
  rw [if_neg (by omega), if_neg (by omega), if_neg (by omega), if_neg (by omega), if_neg (by omega)]
  congr 1
  omega

@[simp] theorem rdField_packR : rdField (packR op rd ra rb rm fn) = rd := by
  refine BitVec.eq_of_getLsbD_eq fun i hi => ?_
  simp only [rdField, BitVec.getLsbD_extractLsb', packR_getLsbD, hi, decide_true, Bool.true_and]
  rw [if_neg (by omega), if_neg (by omega), if_neg (by omega), if_neg (by omega), if_pos (by omega)]
  congr 1
  omega

@[simp] theorem raField_packR : raField (packR op rd ra rb rm fn) = ra := by
  refine BitVec.eq_of_getLsbD_eq fun i hi => ?_
  simp only [raField, BitVec.getLsbD_extractLsb', packR_getLsbD, hi, decide_true, Bool.true_and]
  rw [if_neg (by omega), if_neg (by omega), if_neg (by omega), if_pos (by omega)]
  congr 1
  omega

@[simp] theorem rbField_packR : rbField (packR op rd ra rb rm fn) = rb := by
  refine BitVec.eq_of_getLsbD_eq fun i hi => ?_
  simp only [rbField, BitVec.getLsbD_extractLsb', packR_getLsbD, hi, decide_true, Bool.true_and]
  rw [if_neg (by omega), if_neg (by omega), if_pos (by omega)]
  congr 1
  omega

@[simp] theorem rmField_packR : rmField (packR op rd ra rb rm fn) = rm := by
  refine BitVec.eq_of_getLsbD_eq fun i hi => ?_
  simp only [rmField, BitVec.getLsbD_extractLsb', packR_getLsbD, hi, decide_true, Bool.true_and]
  rw [if_neg (by omega), if_pos (by omega)]
  congr 1
  omega

@[simp] theorem fnField_packR : fnField (packR op rd ra rb rm fn) = fn := by
  refine BitVec.eq_of_getLsbD_eq fun i hi => ?_
  simp [fnField, packR_getLsbD, hi]

/-! The register a packed field names. -/

@[simp] theorem rdReg_packR : rdReg (packR op rd ra rb rm fn) = regOfField rd := by rw [rdReg, rdField_packR]

@[simp] theorem raReg_packR : raReg (packR op rd ra rb rm fn) = regOfField ra := by rw [raReg, raField_packR]

@[simp] theorem rbReg_packR : rbReg (packR op rd ra rb rm fn) = regOfField rb := by rw [rbReg, rbField_packR]

@[simp] theorem rmReg_packR : rmReg (packR op rd ra rb rm fn) = regOfField rm := by rw [rmReg, rmField_packR]

/-- CGET's selector is the low three bits of FN. -/
@[simp] theorem selField_packR : selField (packR op rd ra rb rm fn) = fn.setWidth 3 := by
  refine BitVec.eq_of_getLsbD_eq fun i hi => ?_
  simp [selField, packR_getLsbD, hi, show i < 10 by omega]

/-- The NEG modifier is bit 0 of FN. -/
@[simp] theorem negField_packR : negField (packR op rd ra rb rm fn) = fn.getLsbD 0 := by
  simp only [negField, packR_getLsbD]
  rfl

/-- A word is its fields. -/
theorem packR_fields (w : CmdWord) :
    packR (opField w) (rdField w) (raField w) (rbField w) (rmField w) (fnField w) = w := by
  refine BitVec.eq_of_getLsbD_eq fun i hi => ?_
  simp only [packR_getLsbD, opField, rdField, raField, rbField, rmField, fnField, BitVec.getLsbD_extractLsb']
  split_ifs with h₁ h₂ h₃ h₄ h₅
  · simp [h₁]
  · simp [show i - 10 < 4 by omega, show 10 + (i - 10) = i by omega]
  · simp [show i - 14 < 4 by omega, show 14 + (i - 14) = i by omega]
  · simp [show i - 18 < 4 by omega, show 18 + (i - 18) = i by omega]
  · simp [show i - 22 < 4 by omega, show 22 + (i - 22) = i by omega]
  · simp [show i - 26 < 6 by omega, show 26 + (i - 26) = i by omega]

/-- Packed words agree exactly when their fields do. -/
theorem packR_inj {op' : BitVec 6} {rd' ra' rb' rm' : RegField} {fn' : BitVec 10} :
    packR op rd ra rb rm fn = packR op' rd' ra' rb' rm' fn' ↔
      op = op' ∧ rd = rd' ∧ ra = ra' ∧ rb = rb' ∧ rm = rm' ∧ fn = fn' := by
  constructor
  · intro h
    refine ⟨?_, ?_, ?_, ?_, ?_, ?_⟩
    · simpa using congrArg opField h
    · simpa using congrArg rdField h
    · simpa using congrArg raField h
    · simpa using congrArg rbField h
    · simpa using congrArg rmField h
    · simpa using congrArg fnField h
  · rintro ⟨rfl, rfl, rfl, rfl, rfl, rfl⟩
    rfl

/-- Masking a packed word masks its fields. -/
theorem packR_and (op' : BitVec 6) (rd' ra' rb' rm' : RegField) (fn' : BitVec 10) :
    packR op rd ra rb rm fn &&& packR op' rd' ra' rb' rm' fn' =
      packR (op &&& op') (rd &&& rd') (ra &&& ra') (rb &&& rb') (rm &&& rm') (fn &&& fn') := by
  simp only [packR]
  iterate 5 rw [BitVec.and_append]

/-- A bit of a format I word (R124). -/
theorem packI_getLsbD (i : Nat) : (packI op rd imm).getLsbD i =
    if i < 16 then imm.getLsbD i else if i < 22 then false
    else if i < 26 then rd.getLsbD (i - 22) else op.getLsbD (i - 26) := by
  simp only [packI, BitVec.getLsbD_append, Nat.sub_sub]
  split_ifs <;> first | omega | rfl | simp

@[simp] theorem opField_packI : opField (packI op rd imm) = op := by
  refine BitVec.eq_of_getLsbD_eq fun i hi => ?_
  simp only [opField, BitVec.getLsbD_extractLsb', packI_getLsbD, hi, decide_true, Bool.true_and]
  rw [if_neg (by omega), if_neg (by omega), if_neg (by omega)]
  congr 1
  omega

@[simp] theorem rdField_packI : rdField (packI op rd imm) = rd := by
  refine BitVec.eq_of_getLsbD_eq fun i hi => ?_
  simp only [rdField, BitVec.getLsbD_extractLsb', packI_getLsbD, hi, decide_true, Bool.true_and]
  rw [if_neg (by omega), if_neg (by omega), if_pos (by omega)]
  congr 1
  omega

@[simp] theorem rdReg_packI : rdReg (packI op rd imm) = regOfField rd := by rw [rdReg, rdField_packI]

@[simp] theorem immField_packI : immField (packI op rd imm) = imm := by
  refine BitVec.eq_of_getLsbD_eq fun i hi => ?_
  simp [immField, packI_getLsbD, hi]

/-- Bits 21 to 16 of a word, which format I requires to be zero (R124). -/
def zeroField (w : CmdWord) : BitVec 6 := w.extractLsb' 16 6

/-- A format I word is its fields. -/
theorem packI_fields (w : CmdWord) (h : zeroField w = 0) : packI (opField w) (rdField w) (immField w) = w := by
  refine BitVec.eq_of_getLsbD_eq fun i hi => ?_
  simp only [packI_getLsbD, opField, rdField, immField, BitVec.getLsbD_extractLsb']
  split_ifs with h₁ h₂ h₃
  · simp [h₁]
  · have := congrArg (fun v => v.getLsbD (i - 16)) h
    simpa [zeroField, show i - 16 < 6 by omega, show 16 + (i - 16) = i by omega] using this.symm
  · simp [show i - 22 < 4 by omega, show 22 + (i - 22) = i by omega]
  · simp [show i - 26 < 6 by omega, show 26 + (i - 26) = i by omega]

/-- Masking a format I word masks its fields. -/
theorem packI_and (op' : BitVec 6) (rd' : RegField) (z' : BitVec 6) (imm' : BitVec 16) :
    packI op rd imm &&& (op' ++ rd' ++ z' ++ imm' : CmdWord) = packI (op &&& op') (rd &&& rd') (imm &&& imm') := by
  simp only [packI]
  iterate 3 rw [BitVec.and_append]
  simp

end Sys2Proof
end

