-- ==== Sys2Proof/Laws/PerInstr.lean ====
section
/-! SUPPORT. For every command: its word carries the fixed bits of a row of the opcode map (30_encoding.md rules R123,
R127), so every field the command does not use is zero in it. -/

namespace Sys2Proof.Laws.FixedBits

/-- The word of `i` has the OP and the fixed bits of a row of the map. -/
def Statement (i : Instr) : Prop := ∃ row ∈ opRows, row.op = opField (encode i) ∧ encode i &&& row.mask = row.pattern

theorem nop : Statement .nop := ⟨opRows[0], by simp [opRows], by decide, by decide⟩

theorem halt : Statement .halt := ⟨opRows[1], by simp [opRows], by decide, by decide⟩

/-- A format R word meets a mask and pattern written as packed fields. -/
theorem of_packR {i : Instr} {op : BitVec 6} {rd ra rb rm : RegField} {fn : BitVec 10} (row : OpRow)
    {rd' ra' rb' rm' : RegField} {fn' : BitVec 10}
    (hmem : row ∈ opRows) (hop : row.op = op) (henc : encode i = packR op rd ra rb rm fn)
    (hmask : row.mask = packR 0x3F rd' ra' rb' rm' fn') (hpat : row.pattern = packR op 0 0 0 0 0)
    (hrd : rd &&& rd' = 0) (hra : ra &&& ra' = 0) (hrb : rb &&& rb' = 0) (hrm : rm &&& rm' = 0)
    (hfn : fn &&& fn' = 0) : Statement i := by
  refine ⟨row, hmem, by rw [henc, opField_packR, hop], ?_⟩
  have hones : ∀ v : BitVec 6, v &&& 0x3F = v := by decide
  rw [henc, hmask, packR_and, hpat, hones op, hrd, hra, hrb, hrm, hfn]

theorem mov (rd ra : Reg) : Statement (.mov rd ra) :=
  of_packR opRows[2] (rd' := 0) (ra' := 0) (rb' := 0xF) (rm' := 0xF) (fn' := 0x3FF) (by simp [opRows]) rfl rfl
    (by decide) (by decide) (by simp) (by simp) (by simp) (by simp) (by simp)

theorem ldi (rd : Reg) (imm : BitVec 16) : Statement (.ldi rd imm) := by
  refine ⟨opRows[3], by simp [opRows], by simp [encode, opRows], ?_⟩
  show packI 4 (fieldOfReg rd) imm &&& ((0x3F#6 ++ 0#4 ++ 0x3F#6 ++ 0#16 : CmdWord)) = 0x10000000
  rw [packI_and]
  simp [packI]

theorem modmul (rd ra rb rm : Reg) : Statement (.modmul rd ra rb rm) :=
  of_packR opRows[4] (rd' := 0) (ra' := 0) (rb' := 0) (rm' := 0) (fn' := 0x3FF) (by simp [opRows]) rfl rfl
    (by decide) (by decide) (by simp) (by simp) (by simp) (by simp) (by simp)

theorem modexp (rd ra rb rm : Reg) : Statement (.modexp rd ra rb rm) :=
  of_packR opRows[5] (rd' := 0) (ra' := 0) (rb' := 0) (rm' := 0) (fn' := 0x3FF) (by simp [opRows]) rfl rfl
    (by decide) (by decide) (by simp) (by simp) (by simp) (by simp) (by simp)

theorem modinv (rd ra rm : Reg) : Statement (.modinv rd ra rm) :=
  of_packR opRows[6] (rd' := 0) (ra' := 0) (rb' := 0xF) (rm' := 0) (fn' := 0x3FF) (by simp [opRows]) rfl rfl
    (by decide) (by decide) (by simp) (by simp) (by simp) (by simp) (by simp)

theorem modsqrt (rd ra rm : Reg) : Statement (.modsqrt rd ra rm) :=
  of_packR opRows[7] (rd' := 0) (ra' := 0) (rb' := 0xF) (rm' := 0) (fn' := 0x3FF) (by simp [opRows]) rfl rfl
    (by decide) (by decide) (by simp) (by simp) (by simp) (by simp) (by simp)

theorem csel (imm : BitVec 16) : Statement (.csel imm) := by
  refine ⟨opRows[8], by simp [opRows], by simp [encode, opRows], ?_⟩
  show packI 0x10 0 imm &&& ((0x3F#6 ++ 0xF#4 ++ 0x3F#6 ++ 0#16 : CmdWord)) = 0x40000000
  rw [packI_and]
  simp [packI]

theorem cld (ra rb rm : Reg) : Statement (.cld ra rb rm) :=
  of_packR opRows[9] (rd' := 0xF) (ra' := 0) (rb' := 0) (rm' := 0) (fn' := 0x3FF) (by simp [opRows]) rfl rfl
    (by decide) (by decide) (by simp) (by simp) (by simp) (by simp) (by simp)

theorem cget (rd : Reg) (sel : BitVec 3) : Statement (.cget rd sel) :=
  of_packR opRows[10] (rd' := 0) (ra' := 0xF) (rb' := 0xF) (rm' := 0xF) (fn' := 0x3F8) (by simp [opRows]) rfl rfl
    (by decide) (by decide) (by simp) (by simp) (by simp) (by simp) (by revert sel; decide)

theorem ecadd (pd pa pb : Reg) : Statement (.ecadd pd pa pb) :=
  of_packR opRows[11] (rd' := 0) (ra' := 0) (rb' := 0) (rm' := 0xF) (fn' := 0x3FF) (by simp [opRows]) rfl rfl
    (by decide) (by decide) (by simp) (by simp) (by simp) (by simp) (by simp)

theorem ecdbl (pd pa : Reg) : Statement (.ecdbl pd pa) :=
  of_packR opRows[12] (rd' := 0) (ra' := 0) (rb' := 0xF) (rm' := 0xF) (fn' := 0x3FF) (by simp [opRows]) rfl rfl
    (by decide) (by decide) (by simp) (by simp) (by simp) (by simp) (by simp)

theorem ecneg (pd pa : Reg) : Statement (.ecneg pd pa) :=
  of_packR opRows[13] (rd' := 0) (ra' := 0) (rb' := 0xF) (rm' := 0xF) (fn' := 0x3FF) (by simp [opRows]) rfl rfl
    (by decide) (by decide) (by simp) (by simp) (by simp) (by simp) (by simp)

theorem ecmul (pd pa rb : Reg) (neg : Bool) : Statement (.ecmul pd pa rb neg) :=
  of_packR opRows[14] (rd' := 0) (ra' := 0) (rb' := 0) (rm' := 0xF) (fn' := 0x3FE) (by simp [opRows]) rfl rfl
    (by decide) (by decide) (by simp) (by simp) (by simp) (by simp) (by revert neg; decide)

theorem ecmulg (pd rb : Reg) (neg : Bool) : Statement (.ecmulg pd rb neg) :=
  of_packR opRows[15] (rd' := 0) (ra' := 0xF) (rb' := 0) (rm' := 0xF) (fn' := 0x3FE) (by simp [opRows]) rfl rfl
    (by decide) (by decide) (by simp) (by simp) (by simp) (by simp) (by revert neg; decide)

theorem mkey (ra rb : Reg) : Statement (.mkey ra rb) :=
  of_packR opRows[16] (rd' := 0xF) (ra' := 0) (rb' := 0) (rm' := 0xF) (fn' := 0x3FF) (by simp [opRows]) rfl rfl
    (by decide) (by decide) (by simp) (by simp) (by simp) (by simp) (by simp)

theorem menc (rd ra : Reg) : Statement (.menc rd ra) :=
  of_packR opRows[17] (rd' := 0) (ra' := 0) (rb' := 0xF) (rm' := 0xF) (fn' := 0x3FF) (by simp [opRows]) rfl rfl
    (by decide) (by decide) (by simp) (by simp) (by simp) (by simp) (by simp)

theorem mdec (rd ra : Reg) : Statement (.mdec rd ra) :=
  of_packR opRows[18] (rd' := 0) (ra' := 0) (rb' := 0xF) (rm' := 0xF) (fn' := 0x3FF) (by simp [opRows]) rfl rfl
    (by decide) (by decide) (by simp) (by simp) (by simp) (by simp) (by simp)

end Sys2Proof.Laws.FixedBits
end

