-- ==== Sys2Proof/Machine/Assembler.lean ====
section
/-! DEFINITION. The assembler of KCC, 30_encoding.md rules R132 to R134, on a program given as lines of characters.
It is a tool beside the machine: `step` does not use it. -/

namespace Sys2Proof.Machine

/-- Why a line is no command of the assembler's language. -/
inductive AsmError where
  /-- The mnemonic is none of R127 and R134. -/
  | unknownMnemonic
  /-- The operands are not those of the mnemonic's syntax column, or out of range. -/
  | badOperands
deriving DecidableEq, Repr

/-- One operand as written (R132, R133). -/
inductive AsmOperand where
  /-- `r0` to `r15`. -/
  | reg (r : Reg)
  /-- A decimal or `0x` hexadecimal number. -/
  | num (n : Nat)
  /-- A symbol, for example `secp256r1` or `gx`. -/
  | sym (name : List Char)
deriving DecidableEq, Repr

/-- A blank inside a line. -/
def isBlank (c : Char) : Bool := c == ' ' || c == '\t'

/-- The characters without the blanks at both ends. -/
def trimBlanks (cs : List Char) : List Char := ((cs.dropWhile isBlank).reverse.dropWhile isBlank).reverse

/-- The value of a digit in a base up to 16. -/
def digitValue (base : Nat) (c : Char) : Option Nat :=
  let v :=
    if '0' ≤ c ∧ c ≤ '9' then c.toNat - '0'.toNat
    else if 'a' ≤ c ∧ c ≤ 'f' then c.toNat - 'a'.toNat + 10
    else if 'A' ≤ c ∧ c ≤ 'F' then c.toNat - 'A'.toNat + 10
    else base
  if v < base then some v else none

/-- The number its digits write, most significant first, from the digits `acc` already read. -/
def digitsValue (base : Nat) : List Char → Nat → Option Nat
  | [], acc => some acc
  | c :: cs, acc =>
    match digitValue base c with
    | some v => digitsValue base cs (base * acc + v)
    | none => none

/-- A number: decimal, or hexadecimal after `0x` (R132). -/
def parseNumber : List Char → Option Nat
  | [] => none
  | '0' :: 'x' :: c :: cs => digitsValue 16 (c :: cs) 0
  | c :: cs => digitsValue 10 (c :: cs) 0

/-- A register `r0` to `r15` (R132). -/
def parseReg : List Char → Option Reg
  | 'r' :: c :: cs =>
    match digitsValue 10 (c :: cs) 0 with
    | some n => if h : n < 16 then some ⟨n, h⟩ else none
    | none => none
  | _ => none

/-- One operand. -/
def parseOperand (cs : List Char) : AsmOperand :=
  match parseReg cs with
  | some r => .reg r
  | none =>
    match parseNumber cs with
    | some n => .num n
    | none => .sym cs

/-- The parts of a line between commas, blanks trimmed; `cur` holds the part being read, reversed. -/
def splitCommas : List Char → List Char → List (List Char)
  | [], cur => [trimBlanks cur.reverse]
  | ',' :: cs, cur => trimBlanks cur.reverse :: splitCommas cs []
  | c :: cs, cur => splitCommas cs (c :: cur)

/-- The operands after a mnemonic: none for a blank rest. -/
def parseOperands (cs : List Char) : List AsmOperand :=
  if trimBlanks cs = [] then [] else (splitCommas cs []).map parseOperand

/-- CSEL's operand: a number or a curve's name (R133). -/
def curveIdOf : AsmOperand → Option (BitVec 16)
  | .num n => if n < 65536 then some (BitVec.ofNat 16 n) else none
  | .sym name =>
    if name = "secp256r1".toList then some 1
    else if name = "brainpoolp512r1".toList then some 2
    else none
  | .reg _ => none

/-- CGET's operand: a number or an element's name (R133). -/
def selectorOf : AsmOperand → Option (BitVec 3)
  | .num n => if n < 8 then some (BitVec.ofNat 3 n) else none
  | .sym name =>
    if name = "a".toList then some 0
    else if name = "b".toList then some 1
    else if name = "p".toList then some 2
    else if name = "n".toList then some 3
    else if name = "gx".toList then some 4
    else if name = "gy".toList then some 5
    else none
  | .reg _ => none

/-- A command of the map with its operands in the order of the syntax column (R127, R133). -/
def assembleCommand (mnemonic : List Char) (ops : List AsmOperand) : Option Instr :=
  if mnemonic = "nop".toList then match ops with | [] => some .nop | _ => none
  else if mnemonic = "halt".toList then match ops with | [] => some .halt | _ => none
  else if mnemonic = "mov".toList then match ops with | [.reg d, .reg a] => some (.mov d a) | _ => none
  else if mnemonic = "ldi".toList then
    match ops with | [.reg d, .num n] => if n < 65536 then some (.ldi d (BitVec.ofNat 16 n)) else none | _ => none
  else if mnemonic = "modmul".toList then
    match ops with | [.reg d, .reg a, .reg b, .reg m] => some (.modmul d a b m) | _ => none
  else if mnemonic = "modexp".toList then
    match ops with | [.reg d, .reg a, .reg b, .reg m] => some (.modexp d a b m) | _ => none
  else if mnemonic = "modinv".toList then
    match ops with | [.reg d, .reg a, .reg m] => some (.modinv d a m) | _ => none
  else if mnemonic = "modsqrt".toList then
    match ops with | [.reg d, .reg a, .reg m] => some (.modsqrt d a m) | _ => none
  else if mnemonic = "csel".toList then match ops with | [c] => (curveIdOf c).map .csel | _ => none
  else if mnemonic = "cld".toList then
    match ops with | [.reg a, .reg b, .reg m] => some (.cld a b m) | _ => none
  else if mnemonic = "cget".toList then match ops with | [.reg d, e] => (selectorOf e).map (.cget d) | _ => none
  else if mnemonic = "ecadd".toList then
    match ops with | [.reg d, .reg a, .reg b] => some (.ecadd d a b) | _ => none
  else if mnemonic = "ecdbl".toList then match ops with | [.reg d, .reg a] => some (.ecdbl d a) | _ => none
  else if mnemonic = "ecneg".toList then match ops with | [.reg d, .reg a] => some (.ecneg d a) | _ => none
  else if mnemonic = "ecmul".toList then
    match ops with | [.reg d, .reg a, .reg b] => some (.ecmul d a b false) | _ => none
  else if mnemonic = "ecmul.neg".toList then
    match ops with | [.reg d, .reg a, .reg b] => some (.ecmul d a b true) | _ => none
  else if mnemonic = "ecmulg".toList then match ops with | [.reg d, .reg b] => some (.ecmulg d b false) | _ => none
  else if mnemonic = "ecmulg.neg".toList then match ops with | [.reg d, .reg b] => some (.ecmulg d b true) | _ => none
  else if mnemonic = "mkey".toList then match ops with | [.reg a, .reg b] => some (.mkey a b) | _ => none
  else if mnemonic = "menc".toList then match ops with | [.reg d, .reg a] => some (.menc d a) | _ => none
  else if mnemonic = "mdec".toList then match ops with | [.reg d, .reg a] => some (.mdec d a) | _ => none
  else none

/-- A pseudo-instruction with its operands (R134). -/
def assemblePseudo (mnemonic : List Char) (ops : List AsmOperand) : Option Pseudo :=
  if mnemonic = "clr".toList then match ops with | [.reg d] => some (.clr d) | _ => none
  else if mnemonic = "ecsub".toList then
    match ops with | [.reg d, .reg a, .reg b, .reg t] => some (.ecsub d a b t) | _ => none
  else if mnemonic = "ecinv".toList then match ops with | [.reg d, .reg a] => some (.ecinv d a) | _ => none
  else none

/-- The mnemonics of R127 and R134, with the `.neg` forms of R132. -/
def mnemonics : List (List Char) :=
  [ "nop".toList, "halt".toList, "mov".toList, "ldi".toList, "modmul".toList, "modexp".toList, "modinv".toList,
    "modsqrt".toList, "csel".toList, "cld".toList, "cget".toList, "ecadd".toList, "ecdbl".toList, "ecneg".toList,
    "ecmul".toList, "ecmul.neg".toList, "ecmulg".toList, "ecmulg.neg".toList, "mkey".toList, "menc".toList,
    "mdec".toList, "clr".toList, "ecsub".toList, "ecinv".toList ]

/-- The commands a mnemonic and its operands stand for: one command of the map with an encoding, or the expansion of a
pseudo-instruction (R132 to R134). -/
def assembleOps (mnemonic : List Char) (ops : List AsmOperand) : Except AsmError (List Instr) :=
  match assembleCommand mnemonic ops, assemblePseudo mnemonic ops with
  | some i, _ => if i.wf then .ok [i] else .error .badOperands
  | none, some p => if p.wf then .ok p.expand else .error .badOperands
  | none, none => if mnemonics.contains mnemonic then .error .badOperands else .error .unknownMnemonic

/-- A line without its comment (R132). -/
def dropComment (cs : List Char) : List Char := cs.takeWhile (fun c => c != ';')

/-- A label at the start of the line, and the rest (R132). DESIGN CHOICE (assumption log 18): the spec says only
`name:`, and the model takes any text before the first colon as the name, blanks, commas or a whole command among it,
or none at all; the same name may stand on several lines. -/
def splitLabel (cs : List Char) : Option (List Char) × List Char :=
  if cs.contains ':' then
    (some (trimBlanks (cs.takeWhile (fun c => c != ':'))), (cs.dropWhile (fun c => c != ':')).drop 1)
  else (none, cs)

/-- The commands of one line after its label: none for a blank one. -/
def assembleBody (cs : List Char) : Except AsmError (List Instr) :=
  match cs.dropWhile isBlank with
  | [] => .ok []
  | c :: rest =>
    assembleOps ((c :: rest).takeWhile (fun c => !isBlank c))
      (parseOperands ((c :: rest).dropWhile (fun c => !isBlank c)))

/-- A program: its commands in order, and each label with the index of the next command in CMD (R132), the first line's
command at index `at0`. -/
def assemble : List (List Char) → Nat → Except AsmError (List Instr × List (List Char × Nat))
  | [], _ => .ok ([], [])
  | line :: lines, at0 => do
    let (label, body) := splitLabel (dropComment line)
    let here ← assembleBody body
    let (later, labels) ← assemble lines (at0 + here.length)
    .ok (here ++ later, (label.toList.map (fun name => (name, at0))) ++ labels)

end Sys2Proof.Machine
end

