-- ==== Sys2Proof/Tests/Slice0.lean ====
section
/-! SUPPORT. Tests of the model. Every expected value is one of the spec's: the words of 30_encoding.md rule R127 and
95_test_vectors.md §2.1, and the vectors of 95_test_vectors.md §2.2 to §2.12, or a hand calculation from the rule named.
At the end, one witness per obligation with hypotheses: a concrete state that meets them. -/

namespace Sys2Proof.Tests

open Sys2Proof.Machine

/-! Each test is checked before the next: tests waiting for one another would each hold a thread. -/

set_option Elab.async false

/-! Helpers: small states, and looking at an outcome. -/

/-- The reset state with some registers set. -/
def regsSet (l : List (Reg × Nat)) : State := l.foldl (fun s p => s.setVal p.1 p.2) State.reset

/-- The same state with a custom curve y² = x³ + a·x + 3 modulo p. -/
def onCurve (p a : Nat) (s : State) : State :=
  { s with curve := { id := .custom, ca := toWord a, cb := 3, cp := toWord p, cn := 0, cgx := 0, cgy := 0 } }

/-- The small curve of 95_test_vectors.md §2.7, with some registers set. -/
def smallCurve (l : List (Reg × Nat)) : State := onCurve 97 2 (regsSet l)

/-- The same state with the preset SECP256R1 selected. -/
def onP256 (s : State) : State := { s with curve := contextOf .secp256r1 Config.secp256r1 }

/-- The same state with a run in progress at a command index. -/
def inRun (k : CmdIndex) (s : State) : State := { s with busy := true, cpc := k }

/-- The same state with a key loaded. -/
def withKey (s : State) : State := { s with key := { s.key with keyv := true } }

/-- The state an outcome gives; the reset state for a stop. -/
def nextOf : Result → State
  | .next t => t
  | .fault _ => State.reset
  | .refused _ => State.reset

/-- Whether an outcome is a next state. -/
def isNext : Result → Bool
  | .next _ => true
  | .fault _ => false
  | .refused _ => false

theorem eq_nextOf {r : Result} (h : isNext r = true) : r = .next (nextOf r) := by
  cases r <;> first | rfl | cases h

/-- One step that fetches, decodes and executes the word. -/
def runWord (s : State) (w : Nat) : State := nextOf (step (s.withFetchWord 32 w))

/-- A register after that step, as a number. -/
def result (s : State) (w : Nat) (r : Reg) : Nat := (runWord s w).val r

/-- A register pair after that step. -/
def resultPair (s : State) (w : Nat) (r : Reg) : Nat × Nat := ((runWord s w).val r, (runWord s w).val (pairSnd r))

/-- The all-ones value. -/
def onesVal : Nat := 2 ^ 2048 - 1

/-! WellFormed: an ill-formed command for each check, which the check refuses, and a well-formed neighbour. -/

theorem test_wf_csel : (Instr.csel 0).wf = false ∧ (Instr.csel 3).wf = false ∧ (Instr.csel 2).wf = true := by decide
theorem test_wf_cget : (Instr.cget 0 6).wf = false ∧ (Instr.cget 0 7).wf = false ∧ (Instr.cget 0 5).wf = true := by
  decide
theorem test_wf_ecadd : (Instr.ecadd 1 0 2).wf = false ∧ (Instr.ecadd 0 1 2).wf = false ∧
    (Instr.ecadd 0 2 1).wf = false ∧ (Instr.ecadd 14 0 2).wf = true := by decide
theorem test_wf_ecdbl : (Instr.ecdbl 1 0).wf = false ∧ (Instr.ecdbl 0 1).wf = false := by decide
theorem test_wf_ecneg : (Instr.ecneg 15 0).wf = false ∧ (Instr.ecneg 0 15).wf = false := by decide
theorem test_wf_ecmul : (Instr.ecmul 1 0 2 false).wf = false ∧ (Instr.ecmul 0 1 2 true).wf = false ∧
    (Instr.ecmul 0 2 1 true).wf = true := by decide
theorem test_wf_ecmulg : (Instr.ecmulg 1 0 false).wf = false ∧ (Instr.ecmulg 0 1 false).wf = true := by decide
theorem test_wf_pseudo : (Pseudo.ecsub 4 0 2 0).wf = false ∧ (Pseudo.ecsub 4 0 2 1).wf = false ∧
    (Pseudo.ecsub 4 0 0 0).wf = true ∧ (Pseudo.ecinv 1 0).wf = false ∧ (Pseudo.clr 1).wf = true := by decide

/-! Decoding: one or more words for every constructor, from R127 and 95_test_vectors.md §2.1 and §3. -/

theorem test_decode_sequencer : decode 0x04000000 = .ok .nop ∧ decode 0x08000000 = .ok .halt ∧
    decode 0x0DCC0000 = .ok (.mov 7 3) ∧ decode 0x10000007 = .ok (.ldi 0 7) ∧
    decode 0x1040FFEF = .ok (.ldi 1 65519) := by decide
theorem test_decode_modular : decode 0x21D98400 = .ok (.modmul 7 6 6 1) ∧ decode 0x26610400 = .ok (.modexp 9 8 4 1) ∧
    decode 0x28800400 = .ok (.modinv 2 0 1) ∧ decode 0x2EA00400 = .ok (.modsqrt 10 8 1) := by decide
theorem test_decode_curve : decode 0x40000002 = .ok (.csel 2) ∧ decode 0x44004800 = .ok (.cld 0 1 2) ∧
    decode 0x4B000003 = .ok (.cget 12 3) ∧ decode 0x4F228000 = .ok (.ecadd 12 8 10) ∧
    decode 0x51900000 = .ok (.ecdbl 6 4) ∧ decode 0x56080000 = .ok (.ecneg 8 2) := by decide
theorem test_decode_scalar : decode 0x5A89C000 = .ok (.ecmul 10 2 7 false) ∧
    decode 0x59008001 = .ok (.ecmul 4 0 2 true) ∧ decode 0x5E018000 = .ok (.ecmulg 8 6 false) ∧
    decode 0x5C800001 = .ok (.ecmulg 2 0 true) := by decide
theorem test_decode_cipher : decode 0x80004000 = .ok (.mkey 0 1) ∧ decode 0x84C80000 = .ok (.menc 3 2) ∧
    decode 0x890C0000 = .ok (.mdec 4 3) := by decide
theorem test_decode_unassigned : decode 0 = .error .unassignedOp ∧ decode 0x14000000 = .error .unassignedOp ∧
    decode 0x8C000000 = .error .unassignedOp ∧ decode 0xFC000000 = .error .unassignedOp := by decide
theorem test_decode_mbz : decode 0x04000001 = .error .nonZeroMbz ∧ decode 0x0C400001 = .error .nonZeroMbz ∧
    decode 0x10010007 = .error .nonZeroMbz ∧ decode 0x28804400 = .error .nonZeroMbz ∧
    decode 0x2C804400 = .error .nonZeroMbz ∧ decode 0x40400001 = .error .nonZeroMbz ∧
    decode 0x44004801 = .error .nonZeroMbz ∧ decode 0x59008002 = .error .nonZeroMbz ∧
    decode 0x5C840000 = .error .nonZeroMbz ∧ decode 0x80404000 = .error .nonZeroMbz := by decide
theorem test_decode_odd : decode 0x4C044000 = .error .oddPoint ∧ decode 0x4C400000 = .error .oddPoint ∧
    decode 0x50840000 = .error .oddPoint := by decide
theorem test_decode_values : decode 0x40000000 = .error .badCurveId ∧ decode 0x40000003 = .error .badCurveId ∧
    decode 0x48000006 = .error .badSelector ∧ decode 0x48000005 = .ok (.cget 0 5) := by decide
theorem test_encode : encode (.modmul 2 0 0 1) = 0x20800400 ∧ encode (.csel 1) = 0x40000001 ∧
    encode (.ecmul 4 0 2 true) = 0x59008001 ∧ encode (.ldi 1 16) = 0x10400010 ∧
    encode (.cget 4 3) = 0x49000003 := by decide
/-- Bytes in the order of R86: the least significant first. -/
theorem test_decode_bytes :
    decodeBytes [0x10, 0x00, 0x40, 0x10, 0xAA] = .ok (.ldi 1 16, [0xAA]) ∧
    decodeTableWord 32 0x10400010 = some (.ldi 1 16) := by decide

/-- A program of R132 to R134: a label, a comment, a hexadecimal number and a pseudo-instruction. -/
theorem test_assemble :
    assemble ["start: modmul r2, r0, r0, r1 ; x".toList, "ecmul.neg r4, r0, r2".toList, "l: ldi r1, 0x10".toList,
      "ecsub r4, r0, r2, r6".toList] 0 =
    .ok ([.modmul 2 0 0 1, .ecmul 4 0 2 true, .ldi 1 16, .ecneg 6 2, .ecadd 4 0 6],
      [("start".toList, 0), ("l".toList, 2)]) := by decide +kernel

/-! Sequencer and data movement: 95_test_vectors.md §2.2. -/

theorem test_nop : (runWord State.reset 0x04000000).cpc = 1 ∧ (runWord State.reset 0x04000000).retired = 1 := by
  decide +kernel
theorem test_halt_last_word :
    (runWord { State.reset with cpc := 1023 } 0x08000000).cpc = 1024 ∧
    statusWord (runWord { State.reset with cpc := 1023 } 0x08000000) = 2 := by decide +kernel
theorem test_mov : result (regsSet [(3, 0x1234)]) 0x0DCC0000 7 = 0x1234 := by decide +kernel
theorem test_ldi_zero_extends : result (regsSet [(0, onesVal)]) 0x1000FFFF 0 = 65535 := by decide +kernel
theorem test_pc_range : (nextOf (step (inRun 1024 State.reset))).errcode = .pcRange ∧
    (nextOf (step (inRun 1024 State.reset))).errpc = 1024 := by decide +kernel
theorem test_illegal : (runWord State.reset 0).errcode = .illegal ∧ statusWord (runWord State.reset 0) = 4 ∧
    (runWord State.reset 0).retired = 0 := by decide +kernel
theorem test_unwritten_word_faults : step (inRun 3 State.reset) = .fault (.unwrittenCommand 3) := rfl

/-! Modular unit: 95_test_vectors.md §2.3, inputs r0, r1, r2 and destination r3. -/

theorem test_modmul_wide : result (regsSet [(0, onesVal), (1, onesVal), (2, 65519)]) 0x20C04800 3 = 57289 := by
  decide +kernel
theorem test_modmul_even : (runWord (regsSet [(0, 7), (1, 5), (2, 10)]) 0x20C04800).errcode = .badModulus := by
  decide +kernel
theorem test_modexp : result (regsSet [(0, 3), (1, 200), (2, 1000003)]) 0x24C04800 3 = 333986 := by decide +kernel
theorem test_modexp_zero : result (regsSet [(0, 0), (1, 0), (2, 11)]) 0x24C04800 3 = 1 := by decide +kernel
theorem test_modinv : result (regsSet [(0, 7), (1, 65519)]) 0x28800400 2 = 9360 := by decide +kernel
theorem test_modinv_none : (runWord (regsSet [(0, 6), (2, 9)]) 0x28C00800).errcode = .notInvertible := by decide +kernel
theorem test_modsqrt : result (regsSet [(0, 3), (1, 7)]) 0x2C800400 2 = 2 ∧
    (runWord (regsSet [(0, 3), (1, 7)]) 0x2C800400).qr = false ∧
    (runWord (regsSet [(0, 2), (1, 7)]) 0x2C800400).qr = true := by decide +kernel
theorem test_modsqrt_modulus : (runWord (regsSet [(0, 5), (1, 13)]) 0x2C800400).errcode = .sqrtModulus ∧
    (runWord (regsSet [(0, 5), (1, 8)]) 0x2C800400).errcode = .badModulus := by decide +kernel

/-! Curve context: 95_test_vectors.md §2.6. -/

theorem test_csel_status : statusWord (runWord State.reset 0x40000001) &&& 0xE0 = 0xA0 ∧
    statusWord (runWord State.reset 0x40000002) &&& 0xE0 = 0xC0 := by decide +kernel
theorem test_cld_status : statusWord (runWord (regsSet [(0, 2), (1, 3), (2, 97)]) 0x44004800) &&& 0xE0 = 0x60 := by
  decide +kernel
theorem test_cld_errors : (runWord (regsSet [(0, 97), (1, 3), (2, 97)]) 0x44004800).errcode = .badCurve ∧
    (runWord (regsSet [(0, 200), (1, 200), (2, 96)]) 0x44004800).errcode = .badModulus := by decide +kernel
theorem test_cget_order : result (onP256 State.reset) 0x48C00003 3 =
    0xFFFFFFFF00000000FFFFFFFFFFFFFFFFBCE6FAADA7179E84F3B9CAC2FC632551 := by decide +kernel
theorem test_cget_custom : (runWord (smallCurve []) 0x48C00004).errcode = .noGenerator ∧
    result (smallCurve []) 0x48C00002 3 = 97 ∧ (runWord State.reset 0x48C00002).errcode = .noCurve := by decide +kernel

/-! Points over GF(97): 95_test_vectors.md §2.7. -/

theorem test_ecadd_chord : resultPair (smallCurve [(0, 3), (1, 6), (2, 0), (3, 10)]) 0x4D008000 4 = (85, 71) := by
  decide +kernel
theorem test_ecadd_bad_point :
    (runWord (smallCurve [(0, 3), (1, 6), (2, onesVal), (3, 5)]) 0x4D008000).errcode = .badPoint := by decide +kernel
theorem test_ecdbl : resultPair (smallCurve [(0, 3), (1, 6)]) 0x51000000 4 = (80, 10) := by decide +kernel
theorem test_ecdbl_order_two : resultPair (smallCurve [(0, 30), (1, 0)]) 0x51000000 4 = (onesVal, onesVal) := by
  decide +kernel
theorem test_ecneg : resultPair (smallCurve [(0, 3), (1, 6)]) 0x55000000 4 = (3, 91) := by decide +kernel
theorem test_ecneg_zero : resultPair (smallCurve [(0, 30), (1, 0)]) 0x55000000 4 = (30, 0) := by decide +kernel
theorem test_ecmul_neg : resultPair (smallCurve [(0, 3), (1, 6), (2, 3)]) 0x59008001 4 = (80, 10) := by decide +kernel
/-- The scalar is the whole register and is not reduced. -/
theorem test_ecmul_wide : resultPair (smallCurve [(0, 0), (1, 10), (2, onesVal)]) 0x59008000 4 = (88, 56) := by
  decide +kernel
theorem test_ecmulg : resultPair (onP256 (regsSet [(0, 2)])) 0x5C800000 2 =
    (0x7CF27B188D034F7E8A52380304B51AC3C08969E277F21B35A60B48FC47669978,
      0x07775510DB8ED040293D9AC69F7430DBBA7DADE63CE982299E04B79D227873D1) := by decide +kernel
theorem test_ecmulg_custom : (runWord (smallCurve [(0, 1)]) 0x5C800000).errcode = .noGenerator := by decide +kernel

/-! MeongCipher with the configuration T1 of 95_test_vectors.md §2.4: values of §2.5. -/

/-- T1. -/
def tablesT1 : CipherTables where
  sbox := { toFun := fun v => 29 * v + 0x63, invFun := fun y => 53 * (y - 0x63),
            left_inv := by decide +kernel, right_inv := by decide +kernel }
  perm2 := { toFun := fun j => 5 * j + 3, invFun := fun j => 77 * (j - 3),
             left_inv := by decide +kernel, right_inv := by decide +kernel }
  perm1 := { toFun := fun j => 11 * j + 7, invFun := fun j => 35 * (j - 7),
             left_inv := by decide +kernel, right_inv := by decide +kernel }
  perm3 := { toFun := fun j => 3 * j + 1, invFun := fun j => 11 * (j - 1),
             left_inv := by decide +kernel, right_inv := by decide +kernel }
  ksMul := fun i j => if j = i ∨ j = i + 1 then 1 else 0
  ksAdd := fun i => BitVec.ofNat 8 (0x11 * i.val)
  mix := fun h k => Vector.ofFn (fun i : Fin 8 =>
    BitVec.ofNat 8 (List.ofFn (fun j : Fin 8 => k[(i.val + j.val) % 16].toNat * h[j].toNat)).sum)

/-- The key 00 01 … 0F. -/
def keyT1 : Block := blockOf (0x0F0E0D0C0B0A09080706050403020100 : Word)

/-- The block 00 11 … FF. -/
def blockT1 : Block := blockOf (0xFFEEDDCCBBAA99887766554433221100 : Word)

theorem test_key_schedule : (keySchedule tablesT1 keyT1)[9] =
    #v[0xF3, 0xD0, 0x21, 0xB2, 0xFF, 0x2C, 0x4D, 0x4E, 0x2B, 0x88, 0xB9, 0x2A, 0xD7, 0x74, 0xD5, 0x56] := by
  decide +kernel
theorem test_first_round : encRound tablesT1 (bitPermute blockT1 tablesT1.perm2) (keySchedule tablesT1 keyT1)[0] =
    #v[0xB1, 0xA5, 0x84, 0xB4, 0x63, 0x63, 0x2E, 0xFE, 0x9D, 0x21, 0x08, 0xE0, 0x27, 0x7F, 0xC2, 0xCA] := by
  decide +kernel
/-- The trace of round 1 backwards. -/
theorem test_decrypt_round : decRound tablesT1
    #v[0xB1, 0xA5, 0x84, 0xB4, 0x63, 0x63, 0x2E, 0xFE, 0x9D, 0x21, 0x08, 0xE0, 0x27, 0x7F, 0xC2, 0xCA]
    (keySchedule tablesT1 keyT1)[0] =
    #v[0x12, 0xBC, 0x47, 0x89, 0x30, 0xDE, 0x61, 0xAB, 0x56, 0xF8, 0x03, 0xCD, 0x74, 0x9A, 0x25, 0xEF] := by
  decide +kernel
/-- MKEY and then MENC with the tables of T1 (93_implementation_defined.md I13, I14), a vector of 95_test_vectors.md
§2.5. -/
theorem test_mkey_menc_t1 :
    (nextOf (execAt { Config.standard with cipher := tablesT1 } (.menc 3 2)
      (nextOf (execAt { Config.standard with cipher := tablesT1 } (.mkey 0 1)
        (regsSet [(0, 0x0F0E0D0C0B0A09080706050403020100), (1, 16), (2, 0xFFEEDDCCBBAA99887766554433221100)]))))).val 3 =
      0x09FB8A535E96E52F2B80A0737FBE840E := by decide +kernel
theorem test_bit_permute : bitPermute (blockOf (0x80 : Word)) tablesT1.perm1 = blockOf (0x1000 : Word) := by decide +kernel
theorem test_mkey_length : (runWord (regsSet [(0, 0), (1, 15)]) 0x80004000).errcode = .keyLength ∧
    (runWord (regsSet [(0, 0), (1, 2 ^ 128 + 16)]) 0x80004000).errcode = .keyLength := by decide +kernel
theorem test_menc_no_key : (runWord (regsSet [(0, 5)]) 0x84400000).errcode = .noKey ∧
    (runWord (regsSet [(0, 5)]) 0x88400000).errcode = .noKey := by decide +kernel

/-! The host interface: 95_test_vectors.md §2.10. -/

theorem test_read_id : (busRead 0x0000 4 State.reset).readData = 0x4B430100 ∧
    (busRead 0x0004 4 State.reset).readData = 0x04002010 ∧ (busRead 0x0008 4 State.reset).readData = 0 := by
  decide +kernel
theorem test_unmapped : (busRead 0x0028 4 State.reset).hosterr = true ∧ (busWrite 0x2000 4 5 State.reset).hosterr = true ∧
    (busRead 0x4001 4 State.reset).hosterr = true ∧ (busRead 0x0000 2 State.reset).hosterr = true := by decide +kernel
theorem test_register_window : (busWrite 0x4104 4 1 (busWrite 0x4100 4 0x02030405 State.reset)).val 1 =
    0x0000000102030405 := by decide +kernel
theorem test_register_read :
    (busRead 0x420C 4 (regsSet [(2, 0xFFEEDDCCBBAA99887766554433221100)])).readData = 0xFFEEDDCC := by decide +kernel
theorem test_command_window : readCmd (busWrite 0x1014 4 0x08000000 State.reset).mem 5 = some 0x08000000 := by
  decide +kernel
theorem test_write_cpc : (busWrite 0x0018 4 0x00012345 State.reset).cpc = 0x2345 := by decide +kernel
theorem test_busy_writes : (busWrite 0x1000 4 0x04000000 (inRun 0 State.reset)).hosterr = true ∧
    (busWrite 0x1000 4 0x04000000 (inRun 0 State.reset)).mem = [] ∧
    (busWrite 0x0018 4 7 (inRun 0 State.reset)).cpc = 0 := by decide +kernel
/-- A trap sets IRQ_PEND.ERR whatever IRQ_EN holds, and irq follows the mask. -/
theorem test_irq : irq (busWrite 0x001C 4 1 (trap .illegal State.reset)) = false ∧
    irq (busWrite 0x001C 4 3 (trap .illegal State.reset)) = true ∧
    irq (busWrite 0x0020 4 2 (busWrite 0x001C 4 2 (trap .illegal State.reset))) = false := by decide +kernel
theorem test_abort : (busWrite 0x0008 4 2 (inRun 3 State.reset)).errcode = .aborted ∧
    (busWrite 0x0008 4 2 (inRun 3 State.reset)).errpc = 3 ∧ busWrite 0x0008 4 2 State.reset = State.reset ∧
    (busWrite 0x0008 4 3 (inRun 3 State.reset)).hosterr = true := by decide +kernel
/-- Recovery from a trap (R312): START runs the trapping command again, with the report cleared. -/
theorem test_restart : (start (trap .sqrtModulus (inRun 2 State.reset))).cpc = 2 ∧
    statusWord (start (trap .sqrtModulus (inRun 2 State.reset))) = 1 := by decide +kernel
/-- Duty H-12 (60_exceptions.md rule R322): START has its turn once ERRCODE and ERRPC have both been read. -/
theorem test_report_read : (nextOf (core.run 3 { (trap .illegal State.reset) with
      agenda := [.bus (.read 0x0014 4), .bus (.read 0x0010 4), .bus (.write 0x0008 4 1)] })).busy = true ∧
    isNext (core.run 2 { (trap .illegal State.reset) with
      agenda := [.bus (.read 0x0014 4), .bus (.write 0x0008 4 1)] }) = false := by decide +kernel
/-- A configuration of other values than R12's: the smallest of 00_scope.md rule R14, and its CONFIG word (R34). -/
theorem test_config_word : Config.configWord 2048 16 1024 = 0x04002010 ∧ Config.configWord 576 2 1 = 0x00010902 := by
  decide +kernel
/-- The smallest core of R14, with the presets of R212 and the cipher of T1; its two registers are named by fields 0 and
1. -/
def smallCore : Configuration 2 where
  presets := Config.curvePresets
  cipher := tablesT1
  regOf := fun r => if r = 0 then 0 else 1

/-- MOV and the infinity sentinel on two registers of 520 bits: a pair is r0 and r1 (R121). -/
theorem test_small_machine : pairSnd (0 : Reg 2) = 1 ∧ ((resetState 520 2 1).setReg 0 Config.ones).val 0 = 2 ^ 520 - 1 ∧
    ∃ t : State.Of 520 2 1, execAt smallCore (.mov 1 0) ((resetState 520 2 1).setReg 0 7) = .next t ∧
      t.val 1 = 7 := ⟨by decide, by decide +kernel, _, rfl, by decide +kernel⟩
/-- CSEL takes its constants from the configuration's presets (93_implementation_defined.md I15), here those of the
curve of 95_test_vectors.md §2.7. -/
theorem test_csel_presets : (nextOf (execAt { Config.standard with
    presets := { Config.curvePresets with secp256r1 := { p := 97, a := 2, b := 3, n := 5, gx := 3, gy := 6 } } }
      (.csel 1) State.reset)).curve.cp = 97 := by decide +kernel
/-- The agenda: a host write that starts a run, and the run's first command after it (assumption log 4). -/
theorem test_agenda : (nextOf (core.run 2 { State.reset with
      mem := writeCmd [] 0 0x10000007, agenda := [.bus (.write 0x0008 4 1)] })).val 0 = 7 := by decide +kernel

/-! Witnesses: for each obligation with hypotheses, concrete values that meet all of them together, one witness for each
clause with hypotheses of its own. -/

theorem witness_DecodeInvertsEncode : (Instr.ecmul 14 2 15 true).wf = true := by decide
theorem witness_EncodeInvertsDecode : decode 0x59008001 = .ok (.ecmul 4 0 2 true) := by decide
theorem witness_IllegalEncodingsRejected :
    (∀ row ∈ opRows, row.op ≠ opField 0xFC000000) ∧ opField 0 = 0 ∧
    (∃ row ∈ opRows, row.op = opField 0x04000001 ∧ 0x04000001 &&& row.mask ≠ row.pattern) ∧
    (∃ row ∈ opRows, row.op = opField 0x4C400000 ∧ 0x4C400000 &&& row.mask = row.pattern ∧
      oddPointField row 0x4C400000 = true) := by decide
theorem witness_IllegalEncodingsRejected_values :
    (opField 0x40000000 = 0x10 ∧ immField 0x40000000 ≠ 1 ∧ immField 0x40000000 ≠ 2) ∧
    (opField 0x40000003 = 0x10 ∧ immField 0x40000003 ≠ 1 ∧ immField 0x40000003 ≠ 2) ∧
    (opField 0x48000006 = 0x12 ∧ selField 0x48000006 = 6) ∧ (opField 0x48000007 = 0x12 ∧ selField 0x48000007 = 7) := by
  decide
theorem witness_IllFormedCommandTraps : (Instr.ecdbl 1 0).wf = false ∧ (Instr.csel 0).wf = false := by decide

/-- A state in a run at a command word, the next turn the sequencer's. -/
def atWord (k : CmdIndex) (w : Nat) : State := State.withFetchWord { State.reset with cpc := k } 32 w

theorem witness_StepRunsDecodedCommand : nextIsSequencer (atWord 1023 0x08000000) ∧
    (atWord 1023 0x08000000).busy = true ∧ (atWord 1023 0x08000000).cpc.toNat < 1024 ∧
    readCmd (atWord 1023 0x08000000).mem (atWord 1023 0x08000000).cpc.toNat = some 0x08000000 ∧
    decode 0x08000000 = .ok .halt :=
  ⟨.inl rfl, rfl, by decide, by decide +kernel, by decide⟩
/-- A host's turn: a read, and a START whose error report has been read. -/
theorem witness_StepRunsDecodedCommand_host : ∃ a rest,
    ({ inRun 5 State.reset with agenda := [.bus (.read 0x000C 4)] } : State).agenda = .bus a :: rest ∧
    losesReport (takenTurn { inRun 5 State.reset with agenda := [.bus (.read 0x000C 4)] }) a = false := ⟨_, _, rfl, rfl⟩
theorem witness_StepRunsDecodedCommand_start : ∃ a rest, ({ trap .illegal State.reset with
      reportRead := { code := true, pc := true }, agenda := [.bus (.write 0x0008 4 1)] } : State).agenda = .bus a :: rest ∧
    losesReport (takenTurn { trap .illegal State.reset with
      reportRead := { code := true, pc := true }, agenda := [.bus (.write 0x0008 4 1)] }) a = false :=
  ⟨_, _, rfl, by decide +kernel⟩
theorem witness_FetchAndDecodeTraps_range : nextIsSequencer (inRun 1024 State.reset) ∧
    (inRun 1024 State.reset).busy = true ∧ 1024 ≤ (inRun 1024 State.reset).cpc.toNat :=
  ⟨.inl rfl, rfl, by decide⟩
theorem witness_FetchAndDecodeTraps_illegal : nextIsSequencer (atWord 0 0) ∧ (atWord 0 0).busy = true ∧
    (atWord 0 0).cpc.toNat < 1024 ∧ readCmd (atWord 0 0).mem (atWord 0 0).cpc.toNat = some 0 ∧
    decode 0 = .error .unassignedOp :=
  ⟨.inl rfl, rfl, by decide, by decide +kernel, by decide⟩
theorem witness_FetchAndDecodeTraps_idle : nextIsSequencer State.reset ∧ State.reset.busy = false := ⟨.inl rfl, rfl⟩
theorem witness_CselLoadsPreset : Config.Valid 520 2 1 ∧ Config.Valid 2048 16 1024 :=
  ⟨⟨by decide, by decide, by decide, by decide⟩, by decide, by decide, by decide, by decide⟩
theorem witness_CselLoadsPreset_fits : smallCore.presets.secp256r1.Fits 520 ∧ smallCore.presets.brainpoolP512r1.Fits 520 := by
  constructor <;> constructor <;> decide +kernel
theorem witness_QrFlagRule : ∃ t, exec (.modsqrt 2 0 1) (regsSet [(0, 2), (1, 7)]) = .next t ∧
    t.cpc = (regsSet [(0, 2), (1, 7)]).cpc + 1 :=
  ⟨_, eq_nextOf (by decide +kernel), by decide +kernel⟩
theorem witness_QrFlagRule_others : (∀ rd ra rm, Instr.nop ≠ .modsqrt rd ra rm) ∧
    exec .nop State.reset = .next (advance State.reset) := ⟨by intros; simp, rfl⟩
theorem witness_OnlyOwnersWriteState : exec (.mov 1 0) State.reset = .next (advance (State.reset.setReg 1 0)) ∧
    (∀ imm, Instr.mov 1 0 ≠ .csel imm) ∧ (∀ ra rb rm, Instr.mov 1 0 ≠ .cld ra rb rm) ∧
    (∀ ra rb, Instr.mov 1 0 ≠ .mkey ra rb) := ⟨rfl, by simp, by simp, by simp⟩
theorem witness_OnlyResetUnloads : ∃ t, step (withKey (onP256 State.reset)) = .next t ∧
    ¬nextIsReset (withKey (onP256 State.reset)) ∧ (withKey (onP256 State.reset)).key.keyv = true ∧
    (withKey (onP256 State.reset)).curve.id ≠ .none :=
  ⟨_, rfl, (by rintro ⟨_, _, h⟩; cases h), rfl, by decide⟩

/-- The status bits agree at the start of a run. -/
theorem runOk_atWord (k : CmdIndex) (w : Nat) : RunOk (atWord k w) where
  exclusive := by rintro ⟨h, -⟩; cases h
  running := fun _ => ⟨rfl, rfl⟩
  noReport := fun _ => ⟨rfl, rfl⟩
  report := by intro h; cases h

theorem witness_RunEndSetsOneFlag_halt : ∃ t, RunOk (atWord 0 0x08000000) ∧ ¬nextIsReset (atWord 0 0x08000000) ∧
    (atWord 0 0x08000000).busy = true ∧ step (atWord 0 0x08000000) = .next t ∧ t.busy = false :=
  ⟨_, runOk_atWord .., (by rintro ⟨_, _, h⟩; cases h), rfl, eq_nextOf (by decide +kernel), by decide +kernel⟩
theorem witness_RunEndSetsOneFlag_trap : ∃ t, RunOk (atWord 0 0) ∧ ¬nextIsReset (atWord 0 0) ∧
    (atWord 0 0).busy = true ∧ step (atWord 0 0) = .next t ∧ t.busy = false :=
  ⟨_, runOk_atWord .., (by rintro ⟨_, _, h⟩; cases h), rfl, eq_nextOf (by decide +kernel), by decide +kernel⟩
/-- At the last word, and past it, where nothing is left to be fetched. -/
theorem witness_RunEndsWithinBound :
    ((atWord 1023 0x04000000).busy = true ∧ (atWord 1023 0x04000000).agenda = [] ∧
      WordsWrittenFrom (atWord 1023 0x04000000) 1023) ∧
    ((inRun 1024 State.reset).busy = true ∧ WordsWrittenFrom (inRun 1024 State.reset) 1024) := by
  refine ⟨⟨rfl, rfl, fun j h₁ h₂ => ?_⟩, rfl, fun j h₁ h₂ => ?_⟩
  · rw [show j = 1023 by omega]
    exact ⟨0x04000000, by decide +kernel⟩
  · omega
theorem witness_StepStopsInTwoWays_fetch : nextIsSequencer (inRun 1023 State.reset) ∧
    (inRun 1023 State.reset).busy = true ∧ (inRun 1023 State.reset).cpc.toNat < 1024 ∧
    readCmd (inRun 1023 State.reset).mem (inRun 1023 State.reset).cpc.toNat = none :=
  ⟨.inl rfl, rfl, by decide, rfl⟩
/-- A trapped run, one half of its report read, and START next. -/
theorem witness_StepStopsInTwoWays_start :
    step { (busRead 0x0010 4 (trap .illegal State.reset)) with agenda := [.bus (.write 0x0008 4 1)] } = .fault .reportLost ∧
    (busRead 0x0010 4 (trap .illegal State.reset)).reportRead.pc = false ∧ (1 : CmdWord).getLsbD 0 = true ∧
    (1 : CmdWord).getLsbD 1 = false := ⟨rfl, by decide, by decide, by decide⟩
theorem witness_HaltEndsRun : RunOk (atWord 0 0x08000000) ∧ (atWord 0 0x08000000).busy = true :=
  ⟨runOk_atWord .., rfl⟩

/-! The modular unit. -/

theorem witness_BadModulusTraps : ¬GoodModulus (State.reset.val 2) ∧ ¬GoodModulus ((regsSet [(2, 10)]).val 2) ∧
    ¬GoodModulus ((regsSet [(2, 1)]).val 2) := by unfold GoodModulus; decide +kernel
/-- The smallest good modulus, and the largest. -/
theorem witness_ModmulResult : GoodModulus ((regsSet [(2, 3)]).val 2) ∧ GoodModulus ((regsSet [(2, onesVal)]).val 2) := by
  unfold GoodModulus; decide +kernel
theorem witness_ModexpIsPower : GoodModulus ((regsSet [(2, 1000003)]).val 2) := by unfold GoodModulus; decide +kernel
theorem witness_ModinvIsInverse : GoodModulus ((regsSet [(0, 3), (2, 11)]).val 2) ∧
    Nat.gcd ((regsSet [(0, 3), (2, 11)]).val 0 % (regsSet [(0, 3), (2, 11)]).val 2)
      ((regsSet [(0, 3), (2, 11)]).val 2) = 1 := by unfold GoodModulus; decide +kernel
theorem witness_ModinvNotInvertibleTraps : GoodModulus ((regsSet [(0, 6), (2, 9)]).val 2) ∧
    Nat.gcd ((regsSet [(0, 6), (2, 9)]).val 0 % (regsSet [(0, 6), (2, 9)]).val 2)
      ((regsSet [(0, 6), (2, 9)]).val 2) ≠ 1 := by unfold GoodModulus; decide +kernel
theorem witness_ModsqrtResult : (GoodModulus ((regsSet [(2, 7)]).val 2) ∧ (regsSet [(2, 7)]).val 2 % 4 = 3) ∧
    (GoodModulus ((regsSet [(2, 13)]).val 2) ∧ (regsSet [(2, 13)]).val 2 % 4 ≠ 3) := by
  unfold GoodModulus; decide +kernel
theorem witness_QrDecidesSquares : Nat.Prime ((regsSet [(2, 7)]).val 2) ∧ (regsSet [(2, 7)]).val 2 % 4 = 3 := by
  rw [show (regsSet [(2, 7)]).val 2 = 7 by decide +kernel]; norm_num
theorem witness_QrDecidesSquares_root : ∃ y, y * y % (regsSet [(0, 2), (2, 7)]).val 2 =
    (regsSet [(0, 2), (2, 7)]).val 0 % (regsSet [(0, 2), (2, 7)]).val 2 := ⟨4, by decide +kernel⟩

/-! The curve unit. -/

/-- Coefficients at their largest, then each at the modulus. -/
theorem witness_CldLoadsCustom :
    (GoodModulus ((regsSet [(0, 96), (1, 96), (2, 97)]).val 2) ∧
      (regsSet [(0, 96), (1, 96), (2, 97)]).val 0 < (regsSet [(0, 96), (1, 96), (2, 97)]).val 2 ∧
      (regsSet [(0, 96), (1, 96), (2, 97)]).val 1 < (regsSet [(0, 96), (1, 96), (2, 97)]).val 2) ∧
    (regsSet [(0, 97), (1, 3), (2, 97)]).val 2 ≤ (regsSet [(0, 97), (1, 3), (2, 97)]).val 0 ∧
    (regsSet [(0, 2), (1, 97), (2, 97)]).val 2 ≤ (regsSet [(0, 2), (1, 97), (2, 97)]).val 1 := by
  unfold GoodModulus; decide +kernel
theorem witness_CgetCopiesElement : ((onP256 State.reset).curve.id ≠ .none ∧ (onP256 State.reset).curve.id ≠ .custom) ∧
    ((smallCurve []).curve.id ≠ .none ∧ (smallCurve []).curve.id = .custom) := by decide
theorem witness_NoCurveTraps : State.reset.curve.id = .none ∧ (Instr.cget 1 0).wf = true ∧
    (Instr.ecadd 4 0 2).wf = true ∧ (Instr.ecdbl 4 0).wf = true ∧ (Instr.ecneg 4 0).wf = true ∧
    (Instr.ecmul 4 0 2 false).wf = true ∧ (Instr.ecmulg 4 1 true).wf = true := by decide

/-- A pair that holds an affine point with both coordinates below P. -/
theorem readsPoint_affine {s : State} {r : Reg} {x y : Nat} (h : s.val r = x ∧ s.val (pairSnd r) = y ∧ x < s.prime ∧
    y < s.prime) : ReadsPoint s r (.affine x y) := ⟨⟨h.1, h.2.1⟩, h.2.2⟩

/-- A pair that holds INF. -/
theorem readsPoint_inf {s : State} {r : Reg} (h : s.reg r = Config.ones ∧ s.reg (pairSnd r) = Config.ones) :
    ReadsPoint s r .inf := ⟨h, trivial⟩

/-- Points in r0 and r2 of the small curve. -/
def twoPoints (x₁ y₁ x₂ y₂ : Nat) : State := smallCurve [(0, x₁), (1, y₁), (2, x₂), (3, y₂)]

/-- A coordinate equal to P; exactly one coordinate ONES in the second pair. -/
theorem witness_BadPointTraps : (twoPoints 97 0 3 6).curve.id ≠ .none ∧ evenReg (4 : Reg) = true ∧ evenReg (0 : Reg) = true ∧
    BadPair (twoPoints 97 0 3 6) 0 := by
  refine ⟨by decide, by decide, by decide, ?_⟩
  unfold BadPair
  decide +kernel
theorem witness_BadPointTraps_second : ReadsPoint (twoPoints 3 6 onesVal 5) 0 (.affine 3 6) ∧ evenReg (2 : Reg) = true ∧
    BadPair (twoPoints 3 6 onesVal 5) 2 := by
  refine ⟨readsPoint_affine (by decide +kernel), by decide, ?_⟩
  unfold BadPair
  decide +kernel
theorem witness_EcaddIdentityAndInverse :
    (evenReg (4 : Reg) = true ∧ evenReg (0 : Reg) = true ∧ evenReg (2 : Reg) = true ∧ (twoPoints 3 6 3 91).curve.id ≠ .none ∧
      ReadsPoint (twoPoints 3 6 3 91) 0 (.affine 3 6) ∧ ReadsPoint (twoPoints 3 6 3 91) 2 (.affine 3 91) ∧
      (6 + 91) % (twoPoints 3 6 3 91).prime = 0) ∧
    (ReadsPoint (twoPoints onesVal onesVal 3 6) 0 .inf ∧ ReadsPoint (twoPoints onesVal onesVal 3 6) 2 (.affine 3 6)) ∧
    (ReadsPoint (twoPoints 3 6 onesVal onesVal) 0 (.affine 3 6) ∧ ReadsPoint (twoPoints 3 6 onesVal onesVal) 2 .inf) :=
  ⟨⟨by decide, by decide, by decide, by decide, readsPoint_affine (by decide +kernel),
      readsPoint_affine (by decide +kernel), by decide +kernel⟩,
    ⟨readsPoint_inf (by decide +kernel), readsPoint_affine (by decide +kernel)⟩,
    readsPoint_affine (by decide +kernel), readsPoint_inf (by decide +kernel)⟩
theorem witness_EcaddChord : evenReg (4 : Reg) = true ∧ evenReg (0 : Reg) = true ∧ evenReg (2 : Reg) = true ∧
    (twoPoints 3 6 0 10).curve.id ≠ .none ∧ ReadsPoint (twoPoints 3 6 0 10) 0 (.affine 3 6) ∧
    ReadsPoint (twoPoints 3 6 0 10) 2 (.affine 0 10) ∧ (3 : Nat) ≠ 0 ∧
    Int.gcd (((0 : Nat) : Int) - (3 : Nat)) (twoPoints 3 6 0 10).prime = 1 :=
  ⟨by decide, by decide, by decide, by decide, readsPoint_affine (by decide +kernel),
    readsPoint_affine (by decide +kernel), by decide, by decide +kernel⟩

/-- Points on the modulus 15 of 95_test_vectors.md §2.7. -/
def compositeCurve (x₁ y₁ x₂ y₂ : Nat) : State := onCurve 15 2 (regsSet [(0, x₁), (1, y₁), (2, x₂), (3, y₂)])

theorem witness_EcaddChord_trap : (compositeCurve 1 1 4 2).curve.id ≠ .none ∧
    ReadsPoint (compositeCurve 1 1 4 2) 0 (.affine 1 1) ∧ ReadsPoint (compositeCurve 1 1 4 2) 2 (.affine 4 2) ∧
    (1 : Nat) ≠ 4 ∧ Int.gcd (((4 : Nat) : Int) - (1 : Nat)) (compositeCurve 1 1 4 2).prime ≠ 1 :=
  ⟨by decide, readsPoint_affine (by decide +kernel), readsPoint_affine (by decide +kernel), by decide, by decide +kernel⟩
theorem witness_EcaddIdentityAndInverse_trap : ReadsPoint (twoPoints 5 1 5 2) 0 (.affine 5 1) ∧
    ReadsPoint (twoPoints 5 1 5 2) 2 (.affine 5 2) ∧ (1 : Nat) ≠ 2 ∧ (1 + 2) % (twoPoints 5 1 5 2).prime ≠ 0 :=
  ⟨readsPoint_affine (by decide +kernel), readsPoint_affine (by decide +kernel), by decide, by decide +kernel⟩
theorem witness_DoublingTangent :
    (evenReg (4 : Reg) = true ∧ evenReg (0 : Reg) = true ∧ evenReg (2 : Reg) = true ∧ (twoPoints 3 6 3 6).curve.id ≠ .none ∧
      ReadsPoint (twoPoints 3 6 3 6) 0 (.affine 3 6) ∧ ReadsPoint (twoPoints 3 6 3 6) 2 (.affine 3 6) ∧
      2 * 6 % (twoPoints 3 6 3 6).prime ≠ 0 ∧ Nat.gcd (2 * 6) (twoPoints 3 6 3 6).prime = 1) ∧
    (ReadsPoint (twoPoints 30 0 30 0) 0 (.affine 30 0) ∧ ReadsPoint (twoPoints 30 0 30 0) 2 (.affine 30 0) ∧
      2 * 0 % (twoPoints 30 0 30 0).prime = 0) ∧
    (ReadsPoint (compositeCurve 1 3 1 3) 0 (.affine 1 3) ∧ ReadsPoint (compositeCurve 1 3 1 3) 2 (.affine 1 3) ∧
      2 * 3 % (compositeCurve 1 3 1 3).prime ≠ 0 ∧ Nat.gcd (2 * 3) (compositeCurve 1 3 1 3).prime ≠ 1) :=
  ⟨⟨by decide, by decide, by decide, by decide, readsPoint_affine (by decide +kernel),
      readsPoint_affine (by decide +kernel), by decide +kernel, by decide +kernel⟩,
    ⟨readsPoint_affine (by decide +kernel), readsPoint_affine (by decide +kernel), by decide +kernel⟩,
    readsPoint_affine (by decide +kernel), readsPoint_affine (by decide +kernel), by decide +kernel, by decide +kernel⟩
theorem witness_EcdblIsEcaddSelf : evenReg (4 : Reg) = true ∧ evenReg (0 : Reg) = true ∧
    (twoPoints onesVal onesVal 0 0).curve.id ≠ .none ∧ ReadsPoint (twoPoints onesVal onesVal 0 0) 0 .inf :=
  ⟨by decide, by decide, by decide, readsPoint_inf (by decide +kernel)⟩
theorem witness_EcnegResult : evenReg (4 : Reg) = true ∧ evenReg (0 : Reg) = true ∧
    ((twoPoints 30 0 0 0).curve.id ≠ .none ∧ ReadsPoint (twoPoints 30 0 0 0) 0 (.affine 30 0)) ∧
    ((twoPoints onesVal onesVal 0 0).curve.id ≠ .none ∧ ReadsPoint (twoPoints onesVal onesVal 0 0) 0 .inf) :=
  ⟨by decide, by decide, ⟨by decide, readsPoint_affine (by decide +kernel)⟩, by decide, readsPoint_inf (by decide +kernel)⟩
/-- A scalar that gives a point, the scalars 0 and 1, the point INF, and a multiple with no inverse on the way. -/
theorem witness_EcmulResult :
    (evenReg (4 : Reg) = true ∧ evenReg (0 : Reg) = true ∧ (twoPoints 3 6 3 0).curve.id ≠ .none ∧
      ReadsPoint (twoPoints 3 6 3 0) 0 (.affine 3 6) ∧
      ecMul (twoPoints 3 6 3 0).prime (twoPoints 3 6 3 0).coeffA (.affine 3 6) ((twoPoints 3 6 3 0).val 2) true =
        .ok (.affine 80 10)) ∧
    (twoPoints 3 6 0 0).val 2 = 0 ∧ (twoPoints 3 6 1 0).val 2 = 1 ∧
    ReadsPoint (twoPoints onesVal onesVal 5 0) 0 .inf ∧
    (ReadsPoint (compositeCurve 1 3 2 0) 0 (.affine 1 3) ∧
      ecMul (compositeCurve 1 3 2 0).prime (compositeCurve 1 3 2 0).coeffA (.affine 1 3)
        ((compositeCurve 1 3 2 0).val 2) false = .error .notInvertible) :=
  ⟨⟨by decide, by decide, by decide, readsPoint_affine (by decide +kernel), by decide +kernel⟩, by decide +kernel,
    by decide +kernel, readsPoint_inf (by decide +kernel), readsPoint_affine (by decide +kernel), by decide +kernel⟩
/-- The small curve is one CLD can have written. -/
theorem contextOk_smallCurve : ContextOk (smallCurve []).curve := by
  simp only [ContextOk, smallCurve, onCurve]
  decide +kernel
theorem witness_EcmulgResult :
    evenReg (2 : Reg) = true ∧ ContextOk (onP256 (regsSet [(0, 1)])).curve ∧ (onP256 (regsSet [(0, 1)])).curve.id ≠ .none ∧
      (onP256 (regsSet [(0, 1)])).curve.id ≠ .custom ∧ (onP256 (regsSet [(0, 1)])).val 0 = 1 ∧
      (onP256 State.reset).val 0 = 0 :=
  ⟨by decide, rfl, by decide, by decide, by decide +kernel, by decide +kernel⟩
theorem witness_EcmulgResult_custom : evenReg (2 : Reg) = true ∧ ContextOk (smallCurve []).curve ∧
    (smallCurve []).curve.id ≠ .none ∧ (smallCurve []).curve.id = .custom :=
  ⟨by decide, contextOk_smallCurve, by decide, rfl⟩
theorem witness_EcmulgResult_multiple : ∃ r, ecMul (onP256 (regsSet [(0, 2)])).prime (onP256 (regsSet [(0, 2)])).coeffA
    (onP256 (regsSet [(0, 2)])).generator ((onP256 (regsSet [(0, 2)])).val 0) false = .ok r :=
  ⟨.affine 0x7CF27B188D034F7E8A52380304B51AC3C08969E277F21B35A60B48FC47669978
    0x07775510DB8ED040293D9AC69F7430DBBA7DADE63CE982299E04B79D227873D1, by decide +kernel⟩
theorem witness_EcaddCommutesAndInverts : Reduced 97 (.affine 3 6) ∧ Reduced 97 (.affine 0 10) :=
  ⟨⟨by decide, by decide⟩, by decide, by decide⟩
theorem witness_CurveIsClosed : Nat.Prime 97 ∧ 97 ≠ 2 ∧ Reduced 97 (.affine 3 6) ∧ Reduced 97 (.affine 0 10) ∧
    OnCurve 97 2 3 (.affine 3 6) ∧ OnCurve 97 2 3 (.affine 0 10) :=
  ⟨by norm_num, by decide, ⟨by decide, by decide⟩, ⟨by decide, by decide⟩, by unfold OnCurve; decide,
    by unfold OnCurve; decide⟩
/-- A scratch pair of its own, and the three pairs equal. -/
theorem witness_EcsubExpansion :
    ((Pseudo.ecsub 4 0 2 6).wf = true ∧ (twoPoints 3 6 0 10).curve.id ≠ .none ∧
      ReadsPoint (twoPoints 3 6 0 10) 0 (.affine 3 6) ∧ ReadsPoint (twoPoints 3 6 0 10) 2 (.affine 0 10) ∧
      (6 : Reg) ≠ 0 ∧ (ecAdd (twoPoints 3 6 0 10).prime (twoPoints 3 6 0 10).coeffA (.affine 3 6)
        (ecNeg (twoPoints 3 6 0 10).prime (.affine 0 10))).isOk = true) ∧
    ((Pseudo.ecsub 4 0 0 0).wf = true ∧ ecAdd (twoPoints 3 6 0 10).prime (twoPoints 3 6 0 10).coeffA
      (ecNeg (twoPoints 3 6 0 10).prime (.affine 3 6)) (ecNeg (twoPoints 3 6 0 10).prime (.affine 3 6)) =
        .ok (.affine 80 87)) :=
  ⟨⟨by decide, by decide, readsPoint_affine (by decide +kernel), readsPoint_affine (by decide +kernel), by decide,
    by decide +kernel⟩, by decide, by decide +kernel⟩

/-! The cipher unit. -/

theorem witness_MkeyLoadsSchedule : (regsSet [(1, 16)]).val 1 = 16 ∧ (regsSet [(1, 15)]).val 1 ≠ 16 := by
  decide +kernel
theorem witness_MencMdecResult : (withKey State.reset).key.keyv = true ∧ State.reset.key.keyv = false := ⟨rfl, rfl⟩
theorem witness_MencThenMdec : (withKey State.reset).key.keyv = true := rfl
/-- A value that differs from the register's above bit 127 only. -/
theorem witness_UpperBitsIgnored : (toWord (2 ^ 128 + 5) : Word).toNat % 2 ^ 128 = (withKey (regsSet [(0, 5)])).val 0 % 2 ^ 128 ∧
    (withKey (regsSet [(0, 5)])).key.keyv = true ∧ (1 : Reg) ≠ 0 := by decide +kernel
theorem witness_UpperBitsIgnored_run : ∃ t u, exec (.menc 1 0) (withKey (regsSet [(0, 5)])) = .next t ∧
    exec (.menc 1 0) ((withKey (regsSet [(0, 5)])).setReg 0 (toWord (2 ^ 128 + 5))) = .next u := ⟨_, _, rfl, rfl⟩

/-! The host interface and reset. -/

theorem witness_CommandWindow : (atWord 1023 5 |> endRun).busy = false ∧
    readCmd (atWord 1023 5 |> endRun).mem (1023 : BitVec 10).toNat = some 5 := by decide +kernel
theorem witness_RegisterWindow : State.reset.busy = false := rfl
theorem witness_BusyWindows : (inRun 0 State.reset).busy = true ∧ (0x1000 : HostAddr).toNat % 4 = 0 ∧
    (0x1FFC : HostAddr).toNat < 0x2000 ∧ 0x4000 ≤ (0x4FFC : HostAddr).toNat ∧ (0x4FFC : HostAddr).toNat < 0x5000 ∧
    (0x0018 : HostAddr).toNat % 4 = 0 ∧ State.reset.busy = false := by decide
theorem witness_HostProtocolViolations : (2 : Nat) ≠ 4 ∧ (0x4001 : HostAddr).toNat % 4 ≠ 0 ∧
    0x0028 ≤ (0x0FFC : HostAddr).toNat ∧ (0x0FFC : HostAddr).toNat < 0x1000 ∧
    0x2000 ≤ (0x3FFC : HostAddr).toNat ∧ (0x3FFC : HostAddr).toNat < 0x4000 ∧ 0x5000 ≤ (0x5000 : HostAddr).toNat := by
  decide
theorem witness_ReadsHaveNoSideEffect : (0x0024 : HostAddr).toNat % 4 = 0 ∧ target 0x0024 ≠ .unmapped ∧
    (0x0010 : HostAddr).toNat % 4 = 0 ∧ target 0x0010 ≠ .unmapped ∧ target 0x0014 ≠ .unmapped := by decide
theorem witness_ControlWrites :
    ((1 : CmdWord).getLsbD 0 = true ∧ (1 : CmdWord).getLsbD 1 = false) ∧
    ((2 : CmdWord).getLsbD 0 = false ∧ (2 : CmdWord).getLsbD 1 = true) ∧
    ((3 : CmdWord).getLsbD 0 = true ∧ (3 : CmdWord).getLsbD 1 = true) ∧
    ((4 : CmdWord).getLsbD 0 = false ∧ (4 : CmdWord).getLsbD 1 = false) ∧
    State.reset.busy = false ∧ (inRun 0 State.reset).busy = true := by decide
/-- Both bits pending, and the next turn a write of IRQ_PEND that clears DONE alone, or ERR alone. -/
def clearing (v : CmdWord) : State :=
  { trap .illegal (endRun State.reset) with agenda := [.bus (.write 0x0020 4 v)] }

theorem witness_PendingBitsStick_err : ∃ t, step (clearing 1) = .next t ∧ ¬nextIsReset (clearing 1) ∧
    (∀ v rest, (clearing 1).agenda = .bus (.write 0x0020 4 v) :: rest → v.getLsbD 1 = false) ∧
    (clearing 1).irqPend.err = true :=
  ⟨_, eq_nextOf (by decide +kernel), (by rintro ⟨_, _, h⟩; cases h), (by intro v rest h; cases h; decide), rfl⟩
theorem witness_PendingBitsStick_done : ∃ t, step (clearing 2) = .next t ∧ ¬nextIsReset (clearing 2) ∧
    (∀ v rest, (clearing 2).agenda = .bus (.write 0x0020 4 v) :: rest → v.getLsbD 0 = false) ∧
    (clearing 2).irqPend.done = true :=
  ⟨_, eq_nextOf (by decide +kernel), (by rintro ⟨_, _, h⟩; cases h), (by intro v rest h; cases h; decide), rfl⟩
theorem witness_ResetFromAnyState :
    ({ inRun 5 State.reset with agenda := [.reset (some (.read 0x4000 4))] } : State).agenda =
    .reset (some (.read 0x4000 4)) :: [] := rfl

/-! The invariants: a state that meets each and steps. -/

theorem witness_MemoryFormKept : ∃ t, MemoryOk (atWord 1023 0x04000000) ∧ step (atWord 1023 0x04000000) = .next t :=
  ⟨_, ⟨by unfold Memory.wf; decide +kernel, by decide +kernel⟩, eq_nextOf (by decide +kernel)⟩
theorem witness_RunFlagsKept : ∃ t, RunOk (atWord 0 0x08000000) ∧ step (atWord 0 0x08000000) = .next t :=
  ⟨_, runOk_atWord .., eq_nextOf (by decide +kernel)⟩
theorem witness_CurveContextKept : ∃ t, ContextOk (onP256 State.reset).curve ∧ step (onP256 State.reset) = .next t :=
  ⟨_, rfl, rfl⟩
theorem witness_KeyScheduleKept : ∃ s t : State, s.key.keyv = true ∧ KeyOk s.key ∧ step s = .next t :=
  ⟨{ State.reset with key := { keyv := true, rk := keySchedule Config.cipher (blockOf (0 : Word)) } }, _, rfl,
    fun _ => ⟨_, rfl⟩, rfl⟩

end Sys2Proof.Tests
end

