-- ==== Sys2Proof/Proofs/Scope.lean ====
section
/-! PROOFS. The statements of 00_scope.md, which hold in every configuration (R14): a command's two ends, and the
curve context CSEL loads. -/

namespace Sys2Proof.Machine

variable {w nreg ncmd : Nat}

/-! The first phase of a command (R19): which codes its checks and computations can raise. -/

/-- A code a command's own checks raise: no E_NONE, and neither the fetch's E_PC_RANGE nor the host's E_ABORTED
(R302). -/
abbrev ErrorCode.OfCommand (e : ErrorCode) : Prop := e ≠ .none ∧ e ≠ .pcRange ∧ e ≠ .aborted

/-- A computation of a command either gives a value that meets `P` or raises a command's code. -/
def EndsIn {α : Type} (P : α → Prop) : Except ErrorCode α → Prop
  | .ok a => P a
  | .error e => e.OfCommand

/-- A computation of a command that, whatever its value, raises no code but a command's. -/
abbrev Checked {α : Type} (x : Except ErrorCode α) : Prop := EndsIn (fun _ => True) x

theorem EndsIn.ok {α : Type} {P : α → Prop} {a : α} (h : P a) : EndsIn P (.ok a) := h

theorem EndsIn.error {α : Type} {P : α → Prop} {e : ErrorCode} (h : e.OfCommand) : EndsIn P (.error e) := h

theorem EndsIn.ite {α : Type} {P : α → Prop} {c : Prop} [Decidable c] {x y : Except ErrorCode α} (hx : EndsIn P x)
    (hy : EndsIn P y) : EndsIn P (if c then x else y) := by
  split
  · exact hx
  · exact hy

theorem EndsIn.bind {α β : Type} {P : β → Prop} {x : Except ErrorCode α} {f : α → Except ErrorCode β}
    (hx : Checked x) (hf : ∀ a, EndsIn P (f a)) : EndsIn P (x >>= f) := by
  cases x with
  | error e => exact hx
  | ok a => exact hf a

/-- A computation whose one error is E_NOT_INVERTIBLE. -/
theorem Checked.of_notInvertible {α : Type} {x : Except ErrorCode α} (h : ∀ e, x = .error e → e = .notInvertible) :
    Checked x := by
  cases x with
  | ok a => trivial
  | error e =>
    obtain rfl := h e rfl
    exact .error (by decide)

theorem checkLegal_checked (legal : Bool) : Checked (checkLegal legal) := .ite (.ok trivial) (.error (by decide))

theorem checkModulus_checked (m : Nat) : Checked (checkModulus m) := .ite (.error (by decide)) (.ok trivial)

theorem checkInvertible_checked (a m : Nat) : Checked (checkInvertible a m) := .ite (.error (by decide)) (.ok trivial)

theorem checkSqrtModulus_checked (p : Nat) : Checked (checkSqrtModulus p) := .ite (.error (by decide)) (.ok trivial)

theorem checkCurve_checked (s : State.Of w nreg ncmd) : Checked (checkCurve s) :=
  .ite (.error (by decide)) (.ok trivial)

theorem checkGenerator_checked (s : State.Of w nreg ncmd) : Checked (checkGenerator s) :=
  .ite (.error (by decide)) (.ok trivial)

theorem checkCoefficients_checked (a b p : Nat) : Checked (checkCoefficients a b p) :=
  .ite (.error (by decide)) (.ok trivial)

theorem checkElement_checked (s : State.Of w nreg ncmd) (sel : BitVec 3) : Checked (checkElement s sel) :=
  .ite (checkGenerator_checked s) (.ok trivial)

theorem checkKeyLength_checked (n : Nat) : Checked (checkKeyLength n) := .ite (.error (by decide)) (.ok trivial)

theorem checkKey_checked (s : State.Of w nreg ncmd) : Checked (checkKey s) := .ite (.ok trivial) (.error (by decide))

theorem readPoint_checked (s : State.Of w nreg ncmd) (r : Reg nreg) : Checked (readPoint s r) :=
  .ite (.ok trivial) (.ite (.error (by decide)) (.ok trivial))

theorem ecAdd_checked (p a : Nat) (p₁ p₂ : Point) : Checked (ecAdd p a p₁ p₂) :=
  .of_notInvertible fun _ => eq_notInvertible_of_ecAdd

theorem ecMul_checked (p a : Nat) (p₁ : Point) (k : Nat) (neg : Bool) : Checked (ecMul p a p₁ k neg) :=
  .of_notInvertible fun _ => eq_notInvertible_of_ecMul

/-! The second phase: what a command's writes leave for the commit. -/

/-- The state `u` holds the writes of a command of `s` that is still to commit: the host's side, the pointer and the
counter are those of `s`. -/
structure ReadyToCommit (s u : State.Of w nreg ncmd) : Prop extends SameHostSide s u where
  cpc : u.cpc = s.cpc
  retired : u.retired = s.retired

/-- Writing registers, the flag, the curve context and the key state leaves a state ready to commit. -/
theorem readyToCommit_units (s : State.Of w nreg ncmd) (regs : Vector (Word w) nreg) (qr : Bool)
    (curve : CurveContext w) (key : KeyState) :
    ReadyToCommit s { s with regs := regs, qr := qr, curve := curve, key := key } :=
  ⟨⟨fun _ => rfl, rfl, rfl, rfl, rfl, rfl, rfl, rfl, rfl, rfl, rfl, rfl, rfl⟩, rfl, rfl⟩

theorem readyToCommit_setReg (s : State.Of w nreg ncmd) (r : Reg nreg) (v : Word w) :
    ReadyToCommit s (s.setReg r v) :=
  { setReg_sameHostSide s r v with cpc := rfl, retired := rfl }

theorem readyToCommit_writePoint (s : State.Of w nreg ncmd) (r : Reg nreg) (p : Point) :
    ReadyToCommit s (writePoint s r p) :=
  { writePoint_sameHostSide s r p with cpc := writePoint_cpc s r p, retired := writePoint_retired s r p }

/-- A command built of the two phases commits or traps. -/
theorem finish_commitsOrTraps {i : Instr} {s : State.Of w nreg ncmd} {r : Except ErrorCode (State.Of w nreg ncmd)}
    (h : EndsIn (ReadyToCommit s) r) : CommitsOrTraps i s (finish s r) := by
  cases r with
  | ok u =>
    have hc : Commits s (advance u) := advance_commits h.toSameHostSide h.cpc h.retired
    exact ⟨_, rfl, .inl ⟨hc.cpc, hc.retired, fun _ => hc⟩⟩
  | error e =>
    obtain ⟨hnone, hrange, habort⟩ := h
    exact ⟨_, rfl, .inr ⟨e, hnone, hrange, habort, trap_traps e s⟩⟩

/-- HALT, the one command that ends its run, has no check and commits (R159). -/
theorem execHalt_commitsOrTraps (s : State.Of w nreg ncmd) : CommitsOrTraps .halt s (execHalt s) :=
  ⟨_, rfl, .inl ⟨rfl, rfl, fun h => absurd rfl h⟩⟩

/-- Every command of every configuration commits or traps, by the phases of each command in the order of the opcode map
(R127). -/
theorem execAt_commitsOrTraps (c : Configuration nreg) (i : Instr) (s : State.Of w nreg ncmd) :
    CommitsOrTraps i s (execAt c i s) := by
  cases i with
  | nop => exact finish_commitsOrTraps (.ok (readyToCommit_units ..))
  | halt => exact execHalt_commitsOrTraps s
  | mov rd ra => exact finish_commitsOrTraps (.ok (readyToCommit_setReg ..))
  | ldi rd imm => exact finish_commitsOrTraps (.ok (readyToCommit_setReg ..))
  | modmul rd ra rb rm =>
    exact finish_commitsOrTraps (.bind (checkModulus_checked _) fun _ => readyToCommit_setReg ..)
  | modexp rd ra rb rm =>
    exact finish_commitsOrTraps (.bind (checkModulus_checked _) fun _ => readyToCommit_setReg ..)
  | modinv rd ra rm =>
    exact finish_commitsOrTraps (.bind (checkModulus_checked _) fun _ =>
      .bind (checkInvertible_checked ..) fun _ => readyToCommit_setReg ..)
  | modsqrt rd ra rm =>
    exact finish_commitsOrTraps (.bind (checkModulus_checked _) fun _ =>
      .bind (checkSqrtModulus_checked _) fun _ => readyToCommit_units ..)
  | csel imm =>
    exact finish_commitsOrTraps (.bind (checkLegal_checked _) fun _ => readyToCommit_units ..)
  | cld ra rb rm =>
    exact finish_commitsOrTraps (.bind (checkModulus_checked _) fun _ =>
      .bind (checkCoefficients_checked ..) fun _ => readyToCommit_units ..)
  | cget rd sel =>
    exact finish_commitsOrTraps (.bind (checkLegal_checked _) fun _ => .bind (checkCurve_checked s) fun _ =>
      .bind (checkElement_checked s sel) fun _ => readyToCommit_setReg ..)
  | ecadd pd pa pb =>
    exact finish_commitsOrTraps (.bind (checkLegal_checked _) fun _ => .bind (checkCurve_checked s) fun _ =>
      .bind (readPoint_checked s _) fun _ => .bind (readPoint_checked s _) fun _ =>
      .bind (ecAdd_checked ..) fun _ => readyToCommit_writePoint ..)
  | ecdbl pd pa =>
    exact finish_commitsOrTraps (.bind (checkLegal_checked _) fun _ => .bind (checkCurve_checked s) fun _ =>
      .bind (readPoint_checked s _) fun _ => .bind (ecAdd_checked ..) fun _ => readyToCommit_writePoint ..)
  | ecneg pd pa =>
    exact finish_commitsOrTraps (.bind (checkLegal_checked _) fun _ => .bind (checkCurve_checked s) fun _ =>
      .bind (readPoint_checked s _) fun _ => readyToCommit_writePoint ..)
  | ecmul pd pa rb neg =>
    exact finish_commitsOrTraps (.bind (checkLegal_checked _) fun _ => .bind (checkCurve_checked s) fun _ =>
      .bind (readPoint_checked s _) fun _ => .bind (ecMul_checked ..) fun _ => readyToCommit_writePoint ..)
  | ecmulg pd rb neg =>
    exact finish_commitsOrTraps (.bind (checkLegal_checked _) fun _ => .bind (checkCurve_checked s) fun _ =>
      .bind (checkGenerator_checked s) fun _ => .bind (ecMul_checked ..) fun _ => readyToCommit_writePoint ..)
  | mkey ra rb =>
    exact finish_commitsOrTraps (.bind (checkKeyLength_checked _) fun _ => readyToCommit_units ..)
  | menc rd ra =>
    exact finish_commitsOrTraps (.bind (checkKey_checked s) fun _ => readyToCommit_setReg ..)
  | mdec rd ra =>
    exact finish_commitsOrTraps (.bind (checkKey_checked s) fun _ => readyToCommit_setReg ..)

/-- Settles O8, from the two phases of each command in any configuration: the machine of R12 is the standard one. -/
theorem commandCommitsOrTraps : Obligations.CommandCommitsOrTraps := by
  refine ⟨fun i s => ⟨?_, exec_eq_execAt i s⟩, fun w nreg ncmd c i s => execAt_commitsOrTraps c i s⟩
  rw [exec_eq_execAt]
  exact execAt_commitsOrTraps Config.standard i s

/-! CSEL. -/

/-- Constants that fit a width fit every larger one. -/
theorem fits_mono {c : CurvePreset} {v w : Nat} (h : c.Fits v) (hvw : v ≤ w) : c.Fits w := by
  have hpow : 2 ^ v ≤ 2 ^ w := Nat.pow_le_pow_right (by decide) hvw
  obtain ⟨hp, ha, hb, hn, hgx, hgy⟩ := h
  constructor <;> omega

/-- The smallest width R14 allows, 520, holds the constants of SECP256R1 (R212). -/
theorem secp256r1_fits : Config.secp256r1.Fits 520 := by constructor <;> decide +kernel

/-- The smallest width R14 allows, 520, holds the constants of BrainpoolP512r1 (R212). -/
theorem brainpoolP512r1_fits : Config.brainpoolP512r1.Fits 520 := by constructor <;> decide +kernel

/-- CSEL with a legal id loads the preset it names, where that preset fits the registers. -/
theorem execCselOf_loadsPreset {presets : CurvePresets} {imm : BitVec 16} (s : State.Of w nreg ncmd)
    (hid : curveIdOk imm = true) (hfits : (presetOf presets imm).2.Fits w) :
    LoadsPreset (presetOf presets imm).1 (presetOf presets imm).2 s (execCselOf presets imm s) := by
  obtain ⟨hp, ha, hb, hn, hgx, hgy⟩ := hfits
  have hrun : execCselOf presets imm s =
      .next (advance { s with curve := contextOf (presetOf presets imm).1 (presetOf presets imm).2 }) := by
    unfold execCselOf checkLegal
    rw [if_pos hid]
    rfl
  exact ⟨_, hrun, rfl, toNat_toWord ha, toNat_toWord hb, toNat_toWord (by omega), toNat_toWord hn,
    toNat_toWord hgx, toNat_toWord hgy, advance_commits (readyToCommit_units ..).toSameHostSide rfl rfl, fun _ => rfl, rfl, rfl⟩

/-- Settles O24: CSEL's ids 1 and 2 are legal and name the two presets, and those of R212 fit every width from 520
up. -/
theorem cselLoadsPreset : Obligations.CselLoadsPreset := by
  have hfits : ∀ {w}, 520 ≤ w → Config.secp256r1.Fits w ∧ Config.brainpoolP512r1.Fits w :=
    fun hw => ⟨fits_mono secp256r1_fits hw, fits_mono brainpoolP512r1_fits hw⟩
  refine ⟨fun s => ⟨?_, ?_⟩, fun _ _ _ hvalid => hfits hvalid.w_ge, fun _ _ _ c s => ⟨fun h => ?_, fun h => ?_⟩⟩
  · exact execCselOf_loadsPreset (presets := Config.curvePresets) (imm := 1) s rfl (hfits (by decide)).1
  · exact execCselOf_loadsPreset (presets := Config.curvePresets) (imm := 2) s rfl (hfits (by decide)).2
  · exact execCselOf_loadsPreset (presets := c.presets) (imm := 1) s rfl h
  · exact execCselOf_loadsPreset (presets := c.presets) (imm := 2) s rfl h

end Sys2Proof.Machine
end

section
/-! PROOFS. The statements of 10_state.md: the three invariants of the state and their base case, who writes which part
of the state, what the control registers read, and what writes of CTRL and of the interrupt registers do. -/

namespace Sys2Proof.Machine

/-! What a command does to the QR flag, the curve context and the key state (R45, R47, R48). -/

/-- The units' state after a command: each part is as before, or its owner has written it (R45, R47, R48). -/
structure UnitsByOwner (i : Instr) (s t : State) : Prop where
  qr : (∀ rd ra rm, i ≠ .modsqrt rd ra rm) → t.qr = s.qr
  curve : t.curve = s.curve ∨
    (∃ imm, i = .csel imm ∧
      t.curve = contextOf (presetOf Config.curvePresets imm).1 (presetOf Config.curvePresets imm).2) ∨
    (∃ ra rb rm, i = .cld ra rb rm ∧ GoodModulus (s.val rm) ∧ s.val ra < s.val rm ∧ s.val rb < s.val rm ∧
      t.curve = { s.curve with id := .custom, ca := s.reg ra, cb := s.reg rb, cp := s.reg rm })
  key : t.key = s.key ∨
    ∃ ra rb, i = .mkey ra rb ∧ t.key = { keyv := true, rk := keySchedule Config.cipher (blockOf (s.reg ra)) }

theorem SameUnits.byOwner {i : Instr} {s t : State} (h : SameUnits s t) : UnitsByOwner i s t :=
  ⟨fun _ => h.qr, .inl h.curve, .inl h.key⟩

/-- The value of a computation, if it gives one, meets `P`. -/
def ValueMeets {α : Type} (P : α → Prop) (x : Except ErrorCode α) : Prop := ∀ a, x = .ok a → P a

theorem ValueMeets.ok {α : Type} {P : α → Prop} {a : α} (h : P a) : ValueMeets P (.ok a) := by
  rintro _ ⟨⟩
  exact h

theorem ValueMeets.bind {α β : Type} {P : β → Prop} {x : Except ErrorCode α} {f : α → Except ErrorCode β}
    (h : ∀ a, x = .ok a → ValueMeets P (f a)) : ValueMeets P (x >>= f) := by
  cases x with
  | error e => rintro _ ⟨⟩
  | ok a => exact h a rfl

/-- The commit and the trap keep what the first phase has left of the units. -/
theorem finish_unitsByOwner {i : Instr} {s t : State} {r : Except ErrorCode State}
    (h : finish s r = .next t) (hr : ValueMeets (UnitsByOwner i s) r) : UnitsByOwner i s t := by
  rcases finish_next.1 h with ⟨u, hu, rfl⟩ | ⟨e, -, rfl⟩
  · obtain ⟨hqr, hcurve, hkey⟩ := hr u hu
    exact ⟨hqr, hcurve, hkey⟩
  · exact (trap_traps e s).units.byOwner

theorem goodModulus_of_checkModulus {m : Nat} {a : Unit} (h : checkModulus m = .ok a) : GoodModulus m := by
  by_contra hbad
  rw [checkModulus_error hbad] at h
  cases h

theorem lt_of_checkCoefficients {a b p : Nat} {u : Unit} (h : checkCoefficients a b p = .ok u) : a < p ∧ b < p := by
  unfold checkCoefficients at h
  split_ifs at h
  omega

theorem setReg_byOwner (i : Instr) (s : State) (r : Reg) (v : Word) : UnitsByOwner i s (s.setReg r v) :=
  SameUnits.byOwner ⟨rfl, rfl, rfl⟩

theorem writePoint_byOwner (i : Instr) (s : State) (r : Reg) (p : Point) : UnitsByOwner i s (writePoint s r p) :=
  (writePoint_sameUnits s r p).byOwner

/-- MODSQRT alone writes the QR flag, CSEL and CLD alone the curve context, and MKEY alone the key state. -/
theorem exec_unitsByOwner {i : Instr} {s t : State} (h : exec i s = .next t) : UnitsByOwner i s t := by
  cases i with
  | nop | halt | mov | ldi => cases h; exact SameUnits.byOwner ⟨rfl, rfl, rfl⟩
  | modmul | modexp | menc | mdec => exact finish_unitsByOwner h (.bind fun _ _ => .ok (setReg_byOwner ..))
  | modinv => exact finish_unitsByOwner h (.bind fun _ _ => .bind fun _ _ => .ok (setReg_byOwner ..))
  | modsqrt rd ra rm =>
    exact finish_unitsByOwner h
      (.bind fun _ _ => .bind fun _ _ => .ok ⟨fun hne => absurd rfl (hne rd ra rm), .inl rfl, .inl rfl⟩)
  | csel imm =>
    exact finish_unitsByOwner h (.bind fun _ _ => .ok ⟨fun _ => rfl, .inr (.inl ⟨imm, rfl, rfl⟩), .inl rfl⟩)
  | cld ra rb rm =>
    refine finish_unitsByOwner h (.bind fun _ hm => .bind fun _ hc => .ok ⟨fun _ => rfl, .inr (.inr ?_), .inl rfl⟩)
    obtain ⟨ha, hb⟩ := lt_of_checkCoefficients hc
    exact ⟨ra, rb, rm, rfl, goodModulus_of_checkModulus hm, ha, hb, rfl⟩
  | cget =>
    exact finish_unitsByOwner h (.bind fun _ _ => .bind fun _ _ => .bind fun _ _ => .ok (setReg_byOwner ..))
  | ecadd =>
    exact finish_unitsByOwner h (.bind fun _ _ => .bind fun _ _ => .bind fun _ _ => .bind fun _ _ =>
      .bind fun _ _ => .ok (writePoint_byOwner ..))
  | ecneg =>
    exact finish_unitsByOwner h (.bind fun _ _ => .bind fun _ _ => .bind fun _ _ => .ok (writePoint_byOwner ..))
  | ecdbl | ecmul | ecmulg =>
    exact finish_unitsByOwner h
      (.bind fun _ _ => .bind fun _ _ => .bind fun _ _ => .bind fun _ _ => .ok (writePoint_byOwner ..))
  | mkey ra rb =>
    exact finish_unitsByOwner h (.bind fun _ _ => .ok ⟨fun _ => rfl, .inl rfl, .inr ⟨ra, rb, rfl, rfl⟩⟩)

/-! What a host transaction does to the run's status and to the units. -/

/-- The status bits of a run and its error report are as before. -/
structure SameRun (s t : State) : Prop where
  busy : t.busy = s.busy
  done : t.done = s.done
  err : t.err = s.err
  errcode : t.errcode = s.errcode
  errpc : t.errpc = s.errpc

/-- The run's status, its report and the units are as before: what every host transaction leaves but a START that is
accepted and an ABORT that ends a run. -/
structure SameCore (s t : State) : Prop extends SameRun s t, SameUnits s t

/-- What is left of the state when its run's status, its report and its units stay. -/
theorem sameCore_with (s : State) (regs : Vector Word 16) (mem : Memory) (cpc : CmdIndex) (hosterr : Bool)
    (irqEn irqPend : EventBits) (agenda : List Turn) (readData : CmdWord) (reportRead : ReportRead) (draws : Nat) :
    SameCore s { s with
      regs := regs, mem := mem, cpc := cpc, hosterr := hosterr, irqEn := irqEn, irqPend := irqPend, agenda := agenda,
      readData := readData, reportRead := reportRead, draws := draws } :=
  ⟨⟨rfl, rfl, rfl, rfl, rfl⟩, ⟨rfl, rfl, rfl⟩⟩

theorem sameCore_ite {c : Prop} [Decidable c] {s t u : State} (ht : SameCore s t) (hu : SameCore s u) :
    SameCore s (if c then t else u) := by
  split
  · exact ht
  · exact hu

theorem whileIdle_sameCore {s t : State} (h : SameCore s t) : SameCore s (whileIdle s t) :=
  sameCore_ite (sameCore_with ..) h

theorem targetRead_sameCore (s : State) (g : Target 16) : SameCore s (targetRead s g) := by
  cases g with
  | control r => exact sameCore_with ..
  | command k =>
    refine sameCore_ite (sameCore_with ..) ?_
    split
    · exact sameCore_with ..
    · exact sameCore_with ..
  | operand r k => exact sameCore_ite (sameCore_with ..) (sameCore_with ..)
  | unmapped => exact sameCore_with ..

/-- What a host transaction can do to a run: nothing, begin one by START, or end one by ABORT (R35). -/
def RunControlled (s t : State) : Prop :=
  SameCore s t ∨ SameCore (beginRun s) t ∨ (s.busy = true ∧ SameCore (trap .aborted s) t)

theorem RunControlled.sameUnits {s t : State} (h : RunControlled s t) : SameUnits s t := by
  rcases h with h | h | ⟨-, h⟩ <;> exact ⟨h.qr, h.curve, h.key⟩

theorem start_runControlled (s : State) : RunControlled s (start s) := by
  unfold start
  split
  · exact .inl (sameCore_with ..)
  · exact .inr (.inl (sameCore_with ..))

theorem abort_runControlled (s : State) : RunControlled s (abort s) := by
  unfold abort
  split
  next hb => exact .inr (.inr ⟨hb, sameCore_with ..⟩)
  next => exact .inl (sameCore_with ..)

theorem setHostErr_runControlled {s t : State} (h : RunControlled s t) : RunControlled s (setHostErr t) := by
  have keep : ∀ {u}, SameCore u t → SameCore u (setHostErr t) := fun ⟨⟨h₁, h₂, h₃, h₄, h₅⟩, h₆, h₇, h₈⟩ =>
    ⟨⟨h₁, h₂, h₃, h₄, h₅⟩, h₆, h₇, h₈⟩
  exact h.imp keep (.imp keep (.imp id keep))

theorem writeCtrl_runControlled (v : CmdWord) (s : State) : RunControlled s (writeCtrl v s) := by
  unfold writeCtrl
  split_ifs
  · exact setHostErr_runControlled (abort_runControlled s)
  · exact abort_runControlled s
  · exact start_runControlled s
  · exact .inl (sameCore_with ..)

theorem targetWrite_runControlled (v : CmdWord) (s : State) (g : Target 16) :
    RunControlled s (targetWrite v s g) := by
  cases g with
  | control r =>
    cases r with
    | ctrl => exact writeCtrl_runControlled v s
    | cpc => exact .inl (whileIdle_sameCore (sameCore_with ..))
    | id | config | status | errcode | errpc | irqEn | irqPend | retired => exact .inl (sameCore_with ..)
  | command k => exact .inl (whileIdle_sameCore (sameCore_with ..))
  | operand r k => exact .inl (whileIdle_sameCore (sameCore_with ..))
  | unmapped => exact .inl (sameCore_with ..)

theorem serve_runControlled (s : State) (a : Access) : RunControlled s (serve s a) := by
  cases a with
  | read addr size => exact .inl (sameCore_ite (targetRead_sameCore ..) (sameCore_with ..))
  | write addr size v =>
    show RunControlled s (busWrite addr size v s)
    unfold busWrite
    split
    · exact targetWrite_runControlled ..
    · exact .inl (sameCore_with ..)

theorem serveReset_sameCore (s : State) (o : Option Access) : SameCore (resetEvent s) (serveReset s o) := by
  unfold serveReset
  split <;> exact sameCore_with ..

theorem takenTurn_sameCore (s : State) : SameCore s (takenTurn s) := sameCore_with ..

/-- The units after a step: as before, as a command leaves them, or unloaded by a reset (R45, R47, R60). -/
theorem step_units {s t : State} (h : step s = .next t) :
    SameUnits s t ∨ (∃ i, exec i (takenTurn s) = .next t) ∨ (t.curve.id = .none ∧ t.key.keyv = false) := by
  rcases step_next h with ⟨-, h⟩ | ⟨a, rest, -, -, rfl⟩ | ⟨o, rest, -, rfl⟩
  · rcases sequencerTurn_next h with ⟨-, rfl⟩ | ⟨-, -, rfl⟩ | ⟨w, e, -, -, -, rfl⟩ | ⟨w, i, -, -, -, -, hexec⟩
    · exact .inl ⟨rfl, rfl, rfl⟩
    · exact .inl ⟨rfl, rfl, rfl⟩
    · exact .inl ⟨rfl, rfl, rfl⟩
    · exact .inr (.inl ⟨i, hexec⟩)
  · obtain ⟨hqr, hcurve, hkey⟩ := (serve_runControlled (takenTurn s) a).sameUnits
    exact .inl ⟨hqr, hcurve, hkey⟩
  · have hreset := serveReset_sameCore (takenTurn s) o
    rw [hreset.curve, hreset.key]
    exact .inr (.inr ⟨rfl, rfl⟩)

/-! The status bits and the error report (R36 to R38). -/

theorem RunOk.of_sameRun {s t : State} (hs : RunOk s) (h : SameRun s t) : RunOk t := by
  obtain ⟨hbusy, hdone, herr, hcode, hpc⟩ := h
  obtain ⟨hex, hrun, hno, hrep⟩ := hs
  constructor
  · rwa [hdone, herr]
  · rwa [hbusy, hdone, herr]
  · rwa [herr, hcode, hpc]
  · rwa [herr, hcode]

/-- A trap out of a run leaves ERR, its code and no DONE. -/
theorem RunOk.of_traps {e : ErrorCode} {s t : State} (hs : RunOk s) (hb : s.busy = true) (he : e ≠ .none)
    (h : Traps e s t) : RunOk t where
  exclusive := by simp [h.done, (hs.running hb).1]
  running := by simp [h.busy]
  noReport := by simp [h.err]
  report := fun _ => h.errcode ▸ he

/-- With neither DONE nor ERR and an empty report the bits agree, in a run or not. -/
theorem runOk_of_clear {s : State} (hd : s.done = false) (he : s.err = false) (hc : s.errcode = .none)
    (hp : s.errpc = 0) : RunOk s where
  exclusive := by simp [hd]
  running := fun _ => ⟨hd, he⟩
  noReport := fun _ => ⟨hc, hp⟩
  report := by simp [he]

theorem runOk_beginRun (s : State) : RunOk (beginRun s) := runOk_of_clear rfl rfl rfl rfl

theorem runOk_resetEvent (s : State) : RunOk (resetEvent s) := runOk_of_clear rfl rfl rfl rfl

theorem Commits.sameRun {s t : State} (h : Commits s t) : SameRun s t :=
  ⟨h.busy, h.done, h.err, h.errcode, h.errpc⟩

/-- HALT's end of a run leaves DONE and no ERR. -/
theorem RunOk.halt {s : State} (hs : RunOk s) (hb : s.busy = true) : RunOk (endRun (advance s)) where
  exclusive := by simp [(hs.running hb).2]
  running := by simp
  noReport := hs.noReport
  report := hs.report

/-- The three ends of a command (R154, R156, R304): HALT's end of the run, the commit of another command, the trap. -/
theorem exec_next {i : Instr} {s t : State} (h : exec i s = .next t) :
    (i = .halt ∧ t = endRun (advance s)) ∨ Commits s t ∨ ∃ e, e ≠ .none ∧ Traps e s t := by
  obtain ⟨t', hexec, hend⟩ := (commandCommitsOrTraps.1 i s).1
  obtain rfl : t = t' := by
    rw [h] at hexec
    cases hexec
    rfl
  rcases hend with ⟨-, -, hcommit⟩ | ⟨e, hnone, -, -, htrap⟩
  · by_cases hi : i = .halt
    · subst hi
      cases h
      exact .inl ⟨rfl, rfl⟩
    · exact .inr (.inl (hcommit hi))
  · exact .inr (.inr ⟨e, hnone, htrap⟩)

theorem RunOk.exec {i : Instr} {s t : State} (hs : RunOk s) (hb : s.busy = true) (h : exec i s = .next t) :
    RunOk t := by
  rcases exec_next h with ⟨-, rfl⟩ | hcommit | ⟨e, hnone, htrap⟩
  · exact hs.halt hb
  · exact hs.of_sameRun hcommit.sameRun
  · exact hs.of_traps hb hnone htrap

theorem RunOk.sequencerTurn {s t : State} (hs : RunOk s) (h : sequencerTurn Machine.exec s = .next t) : RunOk t := by
  rcases sequencerTurn_next h with ⟨-, rfl⟩ | ⟨hb, -, rfl⟩ | ⟨w, e, hb, -, -, rfl⟩ | ⟨w, i, hb, -, -, -, hexec⟩
  · exact hs
  · exact hs.of_traps hb (by decide) (trap_traps ..)
  · exact hs.of_traps hb (by decide) (trap_traps ..)
  · exact hs.exec hb hexec

theorem RunOk.runControlled {s t : State} (hs : RunOk s) (h : RunControlled s t) : RunOk t := by
  rcases h with h | h | ⟨hb, h⟩
  · exact hs.of_sameRun h.toSameRun
  · exact (runOk_beginRun s).of_sameRun h.toSameRun
  · exact (hs.of_traps hb (by decide) (trap_traps ..)).of_sameRun h.toSameRun

/-- Settles O57, by the kinds of a step: a turn of the sequencer, a host transaction, a reset. -/
theorem runFlagsKept : Obligations.RunFlagsKept := by
  intro s t hs h
  have htaken : RunOk (takenTurn s) := hs.of_sameRun (takenTurn_sameCore s).toSameRun
  rcases step_next h with ⟨-, hturn⟩ | ⟨a, rest, -, -, rfl⟩ | ⟨o, rest, -, rfl⟩
  · exact htaken.sequencerTurn hturn
  · exact htaken.runControlled (serve_runControlled ..)
  · exact (runOk_resetEvent _).of_sameRun (serveReset_sameCore ..).toSameRun

/-! The curve context (R45) and the key state (R47). -/

theorem contextOk_of_none {w : Nat} {c : CurveContext w} (h : c.id = .none) : ContextOk c := by simp [ContextOk, h]

theorem contextOk_preset {w : Nat} (imm : BitVec 16) :
    ContextOk (w := w) (contextOf (presetOf Config.curvePresets imm).1 (presetOf Config.curvePresets imm).2) := by
  unfold presetOf
  split
  · exact rfl
  · exact rfl

theorem exec_contextOk {i : Instr} {s t : State} (hs : ContextOk s.curve) (h : exec i s = .next t) :
    ContextOk t.curve := by
  rcases (exec_unitsByOwner h).curve with hcurve | ⟨imm, -, hcurve⟩ | ⟨ra, rb, rm, -, ⟨hge, hodd⟩, ha, hb, hcurve⟩
  · rwa [hcurve]
  · rw [hcurve]
    exact contextOk_preset imm
  · rw [hcurve]
    exact ⟨hge, hodd, ha, hb⟩

/-- Settles O58, from what a step does to the units: CSEL writes a preset, CLD what it has checked. -/
theorem curveContextKept : Obligations.CurveContextKept := by
  intro s t hs h
  rcases step_units h with hsame | ⟨i, hexec⟩ | ⟨hnone, -⟩
  · rwa [hsame.curve]
  · exact exec_contextOk (s := takenTurn s) hs hexec
  · exact contextOk_of_none hnone

theorem keyOk_of_unloaded {k : KeyState} (h : k.keyv = false) : KeyOk k := by simp [KeyOk, h]

theorem exec_keyOk {i : Instr} {s t : State} (hs : KeyOk s.key) (h : exec i s = .next t) : KeyOk t.key := by
  rcases (exec_unitsByOwner h).key with hkey | ⟨ra, rb, -, hkey⟩
  · rwa [hkey]
  · rw [hkey]
    exact fun _ => ⟨_, rfl⟩

/-- Settles O59, from what a step does to the units: MKEY alone writes a key state, and it is a schedule. -/
theorem keyScheduleKept : Obligations.KeyScheduleKept := by
  intro s t hs h
  rcases step_units h with hsame | ⟨i, hexec⟩ | ⟨-, hunloaded⟩
  · rwa [hsame.key]
  · exact exec_keyOk (s := takenTurn s) hs hexec
  · exact keyOk_of_unloaded hunloaded

/-- Settles O60: no byte is written, every status bit is clear, and no curve and no key is loaded. -/
theorem invariantsAtReset : Obligations.InvariantsAtReset :=
  ⟨⟨.nil, by simp [State.reset, resetState]⟩, runOk_of_clear rfl rfl rfl rfl, contextOk_of_none rfl,
    keyOk_of_unloaded rfl⟩

/-! The QR flag (R48). -/

theorem sqrtMod_lt (a : Nat) {p : Nat} (h : GoodModulus p) : sqrtMod a p < p := Nat.mod_lt _ (by have := h.1; omega)

/-- A MODSQRT that commits writes its root and the flag that says whether the root squared is its input (R187, R188). -/
theorem execModsqrt_commit {rd ra rm : Reg} {s t : State} (h : execModsqrt rd ra rm s = .next t)
    (hc : t.cpc = s.cpc + 1) : GoodModulus (s.val rm) ∧ t.val rd = sqrtMod (s.val ra) (s.val rm) ∧
      t.qr = qrOf (sqrtMod (s.val ra) (s.val rm)) (s.val ra) (s.val rm) := by
  rcases finish_next.1 h with ⟨u, hu, rfl⟩ | ⟨e, -, rfl⟩
  · refine ValueMeets.bind (P := fun v : State => GoodModulus (s.val rm) ∧ v.val rd = sqrtMod (s.val ra) (s.val rm) ∧
      v.qr = qrOf (sqrtMod (s.val ra) (s.val rm)) (s.val ra) (s.val rm))
      (fun _ hm => .bind fun _ _ => .ok ?_) u hu
    have hgood := goodModulus_of_checkModulus hm
    exact ⟨hgood, val_setVal_same s rd ((sqrtMod_lt _ hgood).trans (val_lt s rm)), rfl⟩
  · rw [trap_cpc] at hc
    bv_omega

/-- The first phases of a command in two states that differ in the QR flag alone: both raise one code, or both give
states that differ in the QR flag alone. -/
inductive SameButQr : Except ErrorCode State → Except ErrorCode State → Prop where
  | ok (u : State) (q : Bool) : SameButQr (.ok u) (.ok { u with qr := q })
  | error (e : ErrorCode) : SameButQr (.error e) (.error e)

theorem SameButQr.bind {α : Type} {x : Except ErrorCode α} {f g : α → Except ErrorCode State}
    (h : ∀ a, SameButQr (f a) (g a)) : SameButQr (x >>= f) (x >>= g) := by
  cases x with
  | error e => exact .error e
  | ok a => exact h a

theorem finish_sameButQr {s t : State} {b : Bool} {r r' : Except ErrorCode State} (h : finish s r = .next t)
    (hr : SameButQr r r') : ∃ q, finish { s with qr := b } r' = .next { t with qr := q } := by
  cases hr with
  | ok u q => cases h; exact ⟨q, rfl⟩
  | error e => cases h; exact ⟨b, rfl⟩

theorem sameButQr_setReg (s : State) (b : Bool) (r : Reg) (v : Word) :
    SameButQr (.ok (s.setReg r v)) (.ok (State.Of.setReg { s with qr := b } r v)) := .ok _ b

theorem sameButQr_writePoint (s : State) (b : Bool) (r : Reg) (p : Point) :
    SameButQr (.ok (writePoint s r p)) (.ok (writePoint { s with qr := b } r p)) := by
  cases p <;> exact .ok _ b

/-- No command reads the QR flag: with another flag it ends alike, but for the flag. -/
theorem exec_ignores_qr {i : Instr} {s t : State} (b : Bool) (h : exec i s = .next t) :
    ∃ q, exec i { s with qr := b } = .next { t with qr := q } := by
  cases i with
  | nop | halt | mov | ldi => cases h; exact ⟨b, rfl⟩
  | modmul | modexp | menc | mdec => exact finish_sameButQr h (.bind fun _ => sameButQr_setReg ..)
  | modinv => exact finish_sameButQr h (.bind fun _ => .bind fun _ => sameButQr_setReg ..)
  | modsqrt => exact finish_sameButQr h (.bind fun _ => .bind fun _ => .ok _ _)
  | csel | mkey => exact finish_sameButQr h (.bind fun _ => .ok _ b)
  | cld => exact finish_sameButQr h (.bind fun _ => .bind fun _ => .ok _ b)
  | cget => exact finish_sameButQr h (.bind fun _ => .bind fun _ => .bind fun _ => sameButQr_setReg ..)
  | ecadd =>
    exact finish_sameButQr h
      (.bind fun _ => .bind fun _ => .bind fun _ => .bind fun _ => .bind fun _ => sameButQr_writePoint ..)
  | ecneg => exact finish_sameButQr h (.bind fun _ => .bind fun _ => .bind fun _ => sameButQr_writePoint ..)
  | ecdbl | ecmul | ecmulg =>
    exact finish_sameButQr h (.bind fun _ => .bind fun _ => .bind fun _ => .bind fun _ => sameButQr_writePoint ..)

/-- The bits of STATUS (R36). -/
theorem statusWord_getLsbD (s : State) (b : Nat) : (statusWord s).getLsbD b =
    match b with
    | 0 => s.busy
    | 1 => s.done
    | 2 => s.err
    | 3 => s.qr
    | 4 => s.key.keyv
    | 5 => s.curve.id.code.getLsbD 0
    | 6 => s.curve.id.code.getLsbD 1
    | 7 => s.curve.id.genv
    | 8 => s.hosterr
    | _ => false := by
  simp only [statusWord, BitVec.getLsbD_append, BitVec.getLsbD_ofBool]
  rcases b with _ | _ | _ | _ | _ | _ | _ | _ | _ | b <;> simp

/-- Settles O9, clause by clause: MODSQRT's commit, the owner of the flag, and that no command reads it. -/
theorem qrFlagRule : Obligations.QrFlagRule := by
  refine ⟨fun rd ra rm s t h hc => ?_, fun i s t hi h => (exec_unitsByOwner h).qr hi, fun e s => rfl,
    fun s => ⟨(start_runControlled s).sameUnits.qr, (abort_runControlled s).sameUnits.qr⟩,
    fun i s t b h => exec_ignores_qr b h, fun s => statusWord_getLsbD s 3, rfl⟩
  obtain ⟨-, hval, hqr⟩ := execModsqrt_commit h hc
  rw [hqr, hval]
  rfl

/-! What a command may write. -/

/-- Settles O10: the host's side by the three ends of a command, the units by their owners. -/
theorem onlyOwnersWriteState : Obligations.OnlyOwnersWriteState := by
  intro i s t h
  have hunits := exec_unitsByOwner h
  have hcurve : (∀ imm, i ≠ .csel imm) → (∀ ra rb rm, i ≠ .cld ra rb rm) → t.curve = s.curve := by
    intro hcsel hcld
    rcases hunits.curve with hsame | ⟨imm, hi, -⟩ | ⟨ra, rb, rm, hi, -⟩
    · exact hsame
    · exact absurd hi (hcsel imm)
    · exact absurd hi (hcld ra rb rm)
  have hkey : (∀ ra rb, i ≠ .mkey ra rb) → t.key = s.key := by
    intro hmkey
    rcases hunits.key with hsame | ⟨ra, rb, hi, -⟩
    · exact hsame
    · exact absurd hi (hmkey ra rb)
  rcases exec_next h with ⟨-, rfl⟩ | hc | ⟨e, -, ht⟩
  · exact ⟨fun _ => rfl, .inl rfl, rfl, rfl, rfl, rfl, rfl, .inl rfl, hcurve, hkey⟩
  · exact ⟨hc.mem, .inl hc.cpc, hc.irqEn, hc.hosterr, hc.agenda, hc.readData, hc.draws, .inl hc.reportRead, hcurve,
      hkey⟩
  · exact ⟨ht.mem, .inr ht.cpc, ht.irqEn, ht.hosterr, ht.agenda, ht.readData, ht.draws, .inr ⟨ht.err, ht.reportRead⟩,
      hcurve, hkey⟩

/-! The control registers on the port. -/

/-- The host byte address of a control register (R81). -/
def ControlReg.addr : ControlReg → HostAddr
  | .id => 0x0000
  | .config => 0x0004
  | .ctrl => 0x0008
  | .status => 0x000C
  | .errcode => 0x0010
  | .errpc => 0x0014
  | .cpc => 0x0018
  | .irqEn => 0x001C
  | .irqPend => 0x0020
  | .retired => 0x0024

theorem target_addr (r : ControlReg) : target r.addr = .control r := by cases r <;> rfl

theorem accessOk_addr (r : ControlReg) : accessOk r.addr 4 = true := by cases r <;> rfl

/-- A read of a control register answers `controlRead` and changes the model's record of reads only (R93). -/
theorem serve_read_control (r : ControlReg) (s : State) : serve s (.read r.addr 4) =
    { s with readData := controlRead s r, reportRead := s.reportRead.after r } := by
  simp only [serve, busRead, accessOk_addr, target_addr, if_true]
  rfl

theorem readData_control (r : ControlReg) (s : State) : (serve s (.read r.addr 4)).readData = controlRead s r := by
  rw [serve_read_control]

/-- A write of a control register. -/
theorem serve_write_control (r : ControlReg) (s : State) (v : CmdWord) :
    serve s (.write r.addr 4 v) = controlWrite v s r := by
  simp only [serve, busWrite, accessOk_addr, target_addr, if_true]
  rfl

/-- The bits of IRQ_EN and IRQ_PEND (R40, R41). -/
theorem eventBits_word_getLsbD (e : EventBits) (b : Nat) :
    e.word.getLsbD b = if b = 0 then e.done else if b = 1 then e.err else false := by
  simp only [EventBits.word, BitVec.getLsbD_append, BitVec.getLsbD_ofBool]
  rcases b with _ | _ | b <;> simp

/-- STATUS bits 6:5 are CURVE_ID (R36, R45). -/
theorem statusWord_curve (s : State) : (statusWord s).extractLsb' 5 2 = s.curve.id.code := by
  refine BitVec.eq_of_getLsbD_eq fun i hi => ?_
  rw [BitVec.getLsbD_extractLsb', statusWord_getLsbD]
  rcases i with _ | _ | i
  · rfl
  · rfl
  · omega

theorem genv_iff (c : CurveId) : c.genv = true ↔ c = .secp256r1 ∨ c = .brainpoolP512r1 := by cases c <;> decide

theorem toNat_curveId_code (c : CurveId) : c.code.toNat =
    (match c with
    | .none => 0
    | .secp256r1 => 1
    | .brainpoolP512r1 => 2
    | .custom => 3) := by cases c <;> rfl

theorem toNat_errorCode_code (e : ErrorCode) : (e.code.setWidth 32).toNat =
    (match e with
    | .none => 0
    | .illegal => 1
    | .badModulus => 2
    | .notInvertible => 3
    | .sqrtModulus => 4
    | .noCurve => 5
    | .noGenerator => 6
    | .badPoint => 7
    | .badCurve => 8
    | .keyLength => 9
    | .noKey => 10
    | .pcRange => 11
    | .aborted => 12) := by cases e <;> rfl

theorem toNat_cmdIndex_word (k : CmdIndex) : (k.setWidth 32).toNat = k.toNat := by
  rw [BitVec.toNat_setWidth]
  exact Nat.mod_eq_of_lt (by have := k.isLt; omega)

/-- Settles O50, register by register. -/
theorem statusFields : Obligations.StatusFields := by
  intro s
  refine ⟨readData_control .id s, readData_control .config s, ⟨_, rfl, ?_⟩, ?_, ?_, ?_, ⟨_, rfl, ?_⟩,
    readData_control .retired s⟩
  · rw [show (serve s (.read 0x000C 4)).readData = statusWord s from readData_control .status s]
    refine ⟨statusWord_getLsbD s 0, statusWord_getLsbD s 1, statusWord_getLsbD s 2, statusWord_getLsbD s 3,
      statusWord_getLsbD s 4, ?_, ?_, statusWord_getLsbD s 8, fun b hb => ?_⟩
    · rw [statusWord_curve]
      exact toNat_curveId_code _
    · rw [statusWord_getLsbD]
      exact genv_iff _
    · obtain ⟨k, rfl⟩ := Nat.exists_eq_add_of_le' hb
      exact statusWord_getLsbD s (k + 9)
  · exact (congrArg BitVec.toNat (readData_control .errcode s)).trans (toNat_errorCode_code _)
  · exact (congrArg BitVec.toNat (readData_control .errpc s)).trans (toNat_cmdIndex_word _)
  · exact (congrArg BitVec.toNat (readData_control .cpc s)).trans (toNat_cmdIndex_word _)
  · intro b
    rw [show (serve s (.read 0x001C 4)).readData = s.irqEn.word from readData_control .irqEn s]
    exact eventBits_word_getLsbD ..

theorem start_of_idle {s : State} (h : s.busy = false) : start s = beginRun s := by simp [start, h]

theorem start_of_busy {s : State} (h : s.busy = true) : start s = setHostErr s := if_pos h

theorem abort_of_idle {s : State} (h : s.busy = false) : abort s = s := by simp [abort, h]

theorem abort_traps {s : State} (h : s.busy = true) : Traps .aborted s (abort s) := by
  rw [abort, if_pos h]
  exact trap_traps ..

/-- CTRL by its bits ABORT and START (R35). -/
theorem writeCtrl_eq (v : CmdWord) (s : State) : writeCtrl v s =
    match v.getLsbD 1, v.getLsbD 0 with
    | true, true => setHostErr (abort s)
    | true, false => abort s
    | false, true => start s
    | false, false => s := by
  unfold writeCtrl
  cases v.getLsbD 1 <;> cases v.getLsbD 0 <;> rfl

/-- Settles O51, by the values of START, ABORT and BUSY. -/
theorem controlWrites : Obligations.ControlWrites := by
  intro s v
  rw [show serve s (.write 0x0008 4 v) = writeCtrl v s from serve_write_control .ctrl s v, writeCtrl_eq]
  refine ⟨fun h₀ h₁ hb => ?_, fun h₀ h₁ hb => ?_, fun h₀ h₁ hb => ?_, fun h₀ h₁ hb => ?_, fun h₀ h₁ => ?_,
    fun h₀ h₁ => ?_, serve_read_control .ctrl s⟩ <;> rw [h₁, h₀]
  · exact start_of_idle hb
  · exact start_of_busy hb
  · exact abort_traps hb
  · exact abort_of_idle hb
  · exact ⟨abort s, rfl, abort_traps, abort_of_idle⟩

/-- Settles O52, register by register. -/
theorem interruptRegisters : Obligations.InterruptRegisters := by
  intro s v
  rw [show serve s (.write 0x001C 4 v) = _ from serve_write_control .irqEn s v,
    show serve s (.write 0x0020 4 v) = _ from serve_write_control .irqPend s v,
    show serve s (.write 0x000C 4 v) = _ from serve_write_control .status s v,
    show serve s (.read 0x001C 4) = _ from serve_read_control .irqEn s,
    show serve s (.read 0x0020 4) = _ from serve_read_control .irqPend s]
  refine ⟨⟨_, rfl, rfl, rfl, rfl, ?_⟩, ⟨_, rfl, ?_, ?_, rfl⟩, ⟨_, rfl, ?_, rfl⟩, ⟨_, rfl, ?_⟩, ⟨_, rfl, ?_⟩⟩
  · simp [controlWrite, irq, EventBits.ofWord]
  · simp [controlWrite, EventBits.w1c]
  · simp [controlWrite, EventBits.w1c]
  · simp [controlWrite]
  · exact eventBits_word_getLsbD _
  · exact eventBits_word_getLsbD _

/-! Reset. -/

theorem reg_reset (r : Reg) : State.reset.reg r = 0 := by simp [State.Of.reg, State.reset, resetState]

/-- Settles O54: the reset state's fields are the spec's values, and its register file and memory are empty. -/
theorem resetValues : Obligations.ResetValues :=
  ⟨rfl, rfl, rfl, rfl, rfl, rfl, rfl, rfl, rfl, rfl, rfl, reg_reset, fun _ => rfl⟩

end Sys2Proof.Machine
end

section
/-! PROOFS. The statements of 20_memory.md: the form of command memory, the end of a run, and what the host's reads and
writes of each part of the address map do. -/

namespace Sys2Proof.Machine

/-! The address map (R81). -/

/-- The pages of 4096 bytes by which the map is divided. -/
theorem toNat_page (addr : HostAddr) : (addr.extractLsb' 12 4).toNat = addr.toNat / 0x1000 := by
  rw [BitVec.extractLsb'_toNat, Nat.shiftRight_eq_div_pow]
  have := addr.isLt
  omega

/-- The address map by ranges (R81). -/
theorem target_cases (addr : HostAddr) :
    (addr.toNat < 0x1000 ∧ target addr = controlTarget addr.toNat) ∨
    (0x1000 ≤ addr.toNat ∧ addr.toNat < 0x2000 ∧ target addr = .command (addr.extractLsb' 2 10).toNat) ∨
    (0x4000 ≤ addr.toNat ∧ addr.toNat < 0x5000 ∧
      target addr = .operand (regOfField (addr.extractLsb' 8 4)) (addr.extractLsb' 2 6).toNat) ∨
    ((0x2000 ≤ addr.toNat ∧ addr.toNat < 0x4000 ∨ 0x5000 ≤ addr.toNat) ∧ target addr = .unmapped) := by
  have hpage := toNat_page addr
  unfold target
  dsimp only
  split
  case h_1 =>
    have hoffset : (addr.extractLsb' 0 12).toNat = addr.toNat := by
      rw [BitVec.extractLsb'_toNat, Nat.shiftRight_zero]
      omega
    exact .inl ⟨by omega, by rw [hoffset]⟩
  case h_2 => exact .inr (.inl ⟨by omega, by omega, rfl⟩)
  case h_3 => exact .inr (.inr (.inl ⟨by omega, by omega, rfl⟩))
  case h_4 hzero hone hfour =>
    rw [hpage, imp_false] at hzero hone hfour
    exact .inr (.inr (.inr ⟨by omega, rfl⟩))

theorem target_of_commandWindow {addr : HostAddr} (hge : 0x1000 ≤ addr.toNat) (hlt : addr.toNat < 0x2000) :
    target addr = .command (addr.extractLsb' 2 10).toNat := by
  rcases target_cases addr with ⟨_, _⟩ | ⟨-, -, h⟩ | ⟨_, _, _⟩ | ⟨_, _⟩
  · omega
  · exact h
  · omega
  · omega

theorem target_of_registerWindow {addr : HostAddr} (hge : 0x4000 ≤ addr.toNat) (hlt : addr.toNat < 0x5000) :
    target addr = .operand (regOfField (addr.extractLsb' 8 4)) (addr.extractLsb' 2 6).toNat := by
  rcases target_cases addr with ⟨_, _⟩ | ⟨_, _, _⟩ | ⟨-, -, h⟩ | ⟨_, _⟩
  · omega
  · omega
  · exact h
  · omega

/-- The page of the control registers holds each at its address, and nothing else (R81). -/
theorem controlTarget_cases (n : Nat) :
    (∃ r : ControlReg, n = r.addr.toNat ∧ controlTarget n = .control r) ∨ controlTarget n = .unmapped := by
  unfold controlTarget
  split
  case h_11 => exact .inr rfl
  all_goals exact .inl ⟨_, rfl, rfl⟩

theorem toNat_addr_lt (r : ControlReg) : r.addr.toNat < 0x28 := by cases r <;> decide

/-- The addresses of no register (R81, R88). -/
theorem target_of_gap {addr : HostAddr} (h : (0x0028 ≤ addr.toNat ∧ addr.toNat < 0x1000) ∨
    (0x2000 ≤ addr.toNat ∧ addr.toNat < 0x4000) ∨ 0x5000 ≤ addr.toNat) : target addr = .unmapped := by
  rcases target_cases addr with ⟨hlow, htarget⟩ | ⟨_, _, _⟩ | ⟨_, _, _⟩ | ⟨-, htarget⟩
  · rw [htarget]
    rcases controlTarget_cases addr.toNat with ⟨r, haddr, -⟩ | hgap
    · have := toNat_addr_lt r
      omega
    · exact hgap
  · omega
  · omega
  · exact htarget

theorem target_eq_control_iff {addr : HostAddr} {r : ControlReg} : target addr = .control r ↔ addr = r.addr := by
  refine ⟨fun h => ?_, fun h => h ▸ target_addr r⟩
  rcases target_cases addr with ⟨-, htarget⟩ | ⟨-, -, htarget⟩ | ⟨-, -, htarget⟩ | ⟨-, htarget⟩ <;>
    rw [htarget] at h
  · rcases controlTarget_cases addr.toNat with ⟨q, haddr, hq⟩ | hgap
    · rw [hq] at h
      cases h
      exact BitVec.eq_of_toNat_eq haddr
    · rw [hgap] at h
      cases h
  all_goals cases h

/-- The command window holds 1024 words (R81). -/
theorem lt_of_target_command {addr : HostAddr} {k : Nat} (h : target addr = .command k) : k < 1024 := by
  rcases target_cases addr with ⟨-, htarget⟩ | ⟨-, -, htarget⟩ | ⟨-, -, htarget⟩ | ⟨-, htarget⟩ <;>
    rw [htarget] at h
  · rcases controlTarget_cases addr.toNat with ⟨q, -, hq⟩ | hgap
    · rw [hq] at h
      cases h
    · rw [hgap] at h
      cases h
  · cases h
    exact BitVec.isLt _
  all_goals cases h

/-- The address of command word `k` (R81). -/
theorem toNat_commandAddr (k : BitVec 10) :
    (BitVec.ofNat 16 (0x1000 + 4 * k.toNat)).toNat = 0x1000 + 4 * k.toNat :=
  Nat.mod_eq_of_lt (by omega)

theorem target_commandAddr (k : BitVec 10) : target (BitVec.ofNat 16 (0x1000 + 4 * k.toNat)) = .command k.toNat := by
  have haddr := toNat_commandAddr k
  have hword : ((BitVec.ofNat 16 (0x1000 + 4 * k.toNat)).extractLsb' 2 10).toNat = k.toNat := by
    rw [BitVec.extractLsb'_toNat, Nat.shiftRight_eq_div_pow, haddr]
    omega
  rw [target_of_commandWindow (by omega) (by omega), hword]

/-- The address of word `k` of register `r` (R81). -/
theorem toNat_operandAddr (r : Reg) (k : BitVec 6) :
    (BitVec.ofNat 16 (0x4000 + 0x100 * r.val + 4 * k.toNat)).toNat = 0x4000 + 0x100 * r.val + 4 * k.toNat :=
  Nat.mod_eq_of_lt (by omega)

theorem target_operandAddr (r : Reg) (k : BitVec 6) :
    target (BitVec.ofNat 16 (0x4000 + 0x100 * r.val + 4 * k.toNat)) = .operand r k.toNat := by
  have haddr := toNat_operandAddr r k
  have hreg : regOfField ((BitVec.ofNat 16 (0x4000 + 0x100 * r.val + 4 * k.toNat)).extractLsb' 8 4) = r := by
    refine Fin.ext ?_
    show (BitVec.extractLsb' 8 4 _).toNat = r.val
    rw [BitVec.extractLsb'_toNat, Nat.shiftRight_eq_div_pow, haddr]
    omega
  have hword : ((BitVec.ofNat 16 (0x4000 + 0x100 * r.val + 4 * k.toNat)).extractLsb' 2 6).toNat = k.toNat := by
    rw [BitVec.extractLsb'_toNat, Nat.shiftRight_eq_div_pow, haddr]
    omega
  rw [target_of_registerWindow (by omega) (by omega), hreg, hword]

/-! The port's accesses (R90). -/

theorem accessOk_of_aligned {addr : HostAddr} (h : addr.toNat % 4 = 0) : accessOk addr 4 = true := by
  simp [accessOk, h]

theorem accessOk_eq_false {addr : HostAddr} {size : Nat} (h : size ≠ 4 ∨ addr.toNat % 4 ≠ 0) :
    accessOk addr size = false := by
  simpa [accessOk, imp_iff_not_or] using h

theorem serve_read_aligned {addr : HostAddr} (h : addr.toNat % 4 = 0) (s : State) :
    serve s (.read addr 4) = targetRead s (target addr) := if_pos (accessOk_of_aligned h)

theorem serve_write_aligned {addr : HostAddr} (h : addr.toNat % 4 = 0) (s : State) (v : CmdWord) :
    serve s (.write addr 4 v) = targetWrite v s (target addr) := if_pos (accessOk_of_aligned h)

theorem whileIdle_of_busy {s : State} (t : State) (h : s.busy = true) : whileIdle s t = setHostErr s := if_pos h

theorem whileIdle_of_idle {s : State} (t : State) (h : s.busy = false) : whileIdle s t = t := by simp [whileIdle, h]

/-! What a read does (R93). -/

/-- What a read of each part of the map does (R33 to R42, R83, R84, R88, R92). -/
theorem targetRead_cases (s : State) (g : Target 16) :
    (∃ r, g = .control r ∧
      targetRead s g = { s with readData := controlRead s r, reportRead := s.reportRead.after r }) ∨
    (∃ v, targetRead s g = reply v s) ∨ targetRead s g = replyFree s ∨
    (g = .unmapped ∧ targetRead s g = reply 0 (setHostErr s)) := by
  cases g with
  | control r => exact .inl ⟨r, rfl, rfl⟩
  | command k =>
    simp only [targetRead]
    split
    · exact .inr (.inr (.inl rfl))
    · split
      · exact .inr (.inl ⟨_, rfl⟩)
      · exact .inr (.inr (.inl rfl))
  | operand r k =>
    simp only [targetRead]
    split
    · exact .inr (.inr (.inl rfl))
    · exact .inr (.inl ⟨_, rfl⟩)
  | unmapped => exact .inr (.inr (.inr ⟨rfl, rfl⟩))

theorem targetRead_sameButReadData {g : Target 16} (s : State) (h : g ≠ .unmapped) :
    SameButReadData s (targetRead s g) := by
  rcases targetRead_cases s g with ⟨r, -, hr⟩ | ⟨v, hr⟩ | hr | ⟨hg, -⟩
  · rw [hr]; rfl
  · rw [hr]; rfl
  · rw [hr]; rfl
  · exact absurd hg h

theorem reportRead_after_of_ne (p : ReportRead) {r : ControlReg} (hcode : r ≠ .errcode) (hpc : r ≠ .errpc) :
    p.after r = p := by
  cases r with
  | errcode => exact absurd rfl hcode
  | errpc => exact absurd rfl hpc
  | id | config | ctrl | status | cpc | irqEn | irqPend | retired => rfl

/-- A read of anything but ERRCODE and ERRPC leaves the record of the error report. -/
theorem targetRead_reportRead {g : Target 16} (s : State) (hcode : g ≠ .control .errcode)
    (hpc : g ≠ .control .errpc) : (targetRead s g).reportRead = s.reportRead := by
  rcases targetRead_cases s g with ⟨r, rfl, hr⟩ | ⟨v, hr⟩ | hr | ⟨-, hr⟩
  · rw [hr]
    exact reportRead_after_of_ne _ (fun h => hcode (h ▸ rfl)) fun h => hpc (h ▸ rfl)
  · rw [hr]; rfl
  · rw [hr]; rfl
  · rw [hr]; rfl

/-! Command memory keeps its form (R81, R83). -/

theorem writePoint_mem (s : State) (r : Reg) (p : Point) : (writePoint s r p).mem = s.mem := by cases p <;> rfl

theorem finish_mem {s t : State} {r : Except ErrorCode State} (h : finish s r = .next t)
    (hr : ValueMeets (fun u => u.mem = s.mem) r) : t.mem = s.mem := by
  rcases finish_next.1 h with ⟨u, hu, rfl⟩ | ⟨e, -, rfl⟩
  · exact hr u hu
  · rfl

/-- No command writes command memory (R43). -/
theorem exec_mem {i : Instr} {s t : State} (h : exec i s = .next t) : t.mem = s.mem := by
  cases i with
  | nop | halt | mov | ldi => cases h; rfl
  | modmul | modexp | csel | mkey | menc | mdec => exact finish_mem h (.bind fun _ _ => .ok rfl)
  | modinv | modsqrt | cld => exact finish_mem h (.bind fun _ _ => .bind fun _ _ => .ok rfl)
  | cget => exact finish_mem h (.bind fun _ _ => .bind fun _ _ => .bind fun _ _ => .ok rfl)
  | ecadd =>
    exact finish_mem h (.bind fun _ _ => .bind fun _ _ => .bind fun _ _ => .bind fun _ _ => .bind fun _ _ =>
      .ok (writePoint_mem ..))
  | ecneg => exact finish_mem h (.bind fun _ _ => .bind fun _ _ => .bind fun _ _ => .ok (writePoint_mem ..))
  | ecdbl | ecmul | ecmulg =>
    exact finish_mem h (.bind fun _ _ => .bind fun _ _ => .bind fun _ _ => .bind fun _ _ => .ok (writePoint_mem ..))

theorem sequencerTurn_mem {s t : State} (h : sequencerTurn exec s = .next t) : t.mem = s.mem := by
  rcases sequencerTurn_next h with ⟨-, rfl⟩ | ⟨-, -, rfl⟩ | ⟨w, e, -, -, -, rfl⟩ | ⟨w, i, -, -, -, -, hexec⟩
  · rfl
  · rfl
  · rfl
  · exact exec_mem hexec

theorem targetRead_mem (s : State) (g : Target 16) : (targetRead s g).mem = s.mem := by
  rcases targetRead_cases s g with ⟨r, -, hr⟩ | ⟨v, hr⟩ | hr | ⟨-, hr⟩ <;> rw [hr] <;> rfl

theorem serve_read_mem (s : State) (addr : HostAddr) (size : Nat) : (serve s (.read addr size)).mem = s.mem := by
  show (busRead addr size s).mem = s.mem
  unfold busRead
  split
  · exact targetRead_mem s _
  · rfl

theorem start_mem (s : State) : (start s).mem = s.mem := by
  unfold start
  split <;> rfl

theorem abort_mem (s : State) : (abort s).mem = s.mem := by
  unfold abort
  split <;> rfl

theorem writeCtrl_mem (v : CmdWord) (s : State) : (writeCtrl v s).mem = s.mem := by
  rw [writeCtrl_eq]
  split
  · exact abort_mem s
  · exact abort_mem s
  · exact start_mem s
  · rfl

theorem MemoryOk.of_mem_eq {s t : State} (hs : MemoryOk s) (h : t.mem = s.mem) : MemoryOk t := by
  unfold MemoryOk
  rwa [h]

/-- A word written inside the window keeps the memory's form. -/
theorem memoryOk_writeCmd {s : State} (hs : MemoryOk s) {k : Nat} (hk : k < 1024) (v : CmdWord) :
    MemoryOk ({ s with mem := writeCmd s.mem k v } : State) := by
  obtain ⟨hwf, hwindow⟩ := hs
  refine ⟨writeCmd_wf k v hwf, fun c hc => ?_⟩
  rcases mem_of_mem_writeCmd hc with ⟨j, hj, rfl⟩ | hc
  · dsimp only [cmdAddr, Config.cmdBase]
    omega
  · exact hwindow c hc

theorem MemoryOk.whileIdle {s t : State} (hs : MemoryOk s) (ht : MemoryOk t) : MemoryOk (whileIdle s t) := by
  unfold Machine.whileIdle
  split
  · exact hs
  · exact ht

/-- A write keeps the memory's form: it leaves command memory, or writes a word of the command window while idle. -/
theorem MemoryOk.targetWrite {s : State} (hs : MemoryOk s) (v : CmdWord) {g : Target 16}
    (hg : ∀ k, g = .command k → k < 1024) : MemoryOk (targetWrite v s g) := by
  cases g with
  | control r =>
    cases r with
    | ctrl => exact hs.of_mem_eq (writeCtrl_mem v s)
    | cpc => exact hs.whileIdle (hs.of_mem_eq rfl)
    | id | config | status | errcode | errpc | irqEn | irqPend | retired => exact hs.of_mem_eq rfl
  | command k => exact hs.whileIdle (memoryOk_writeCmd hs (hg k rfl) v)
  | operand r k => exact hs.whileIdle (hs.of_mem_eq rfl)
  | unmapped => exact hs.of_mem_eq rfl

theorem MemoryOk.serve {s : State} (hs : MemoryOk s) (a : Access) : MemoryOk (serve s a) := by
  cases a with
  | read addr size => exact hs.of_mem_eq (serve_read_mem s addr size)
  | write addr size v =>
    show MemoryOk (busWrite addr size v s)
    unfold busWrite
    split
    · exact hs.targetWrite v fun _ => lt_of_target_command
    · exact hs.of_mem_eq rfl

theorem serveReset_mem (s : State) (o : Option Access) : (serveReset s o).mem = [] := by
  unfold serveReset
  split <;> rfl

theorem memoryOk_of_empty {s : State} (h : s.mem = []) : MemoryOk s := by simp [MemoryOk, h]

/-- Settles O56, by the kinds of a step: no turn of the sequencer writes command memory, the port writes inside the
window, and a reset leaves no byte. -/
theorem memoryFormKept : Obligations.MemoryFormKept := by
  intro s t hs h
  rcases step_next h with ⟨-, hturn⟩ | ⟨a, rest, -, -, rfl⟩ | ⟨o, rest, -, rfl⟩
  · exact hs.of_mem_eq (sequencerTurn_mem (s := takenTurn s) hturn)
  · exact MemoryOk.serve (s := takenTurn s) hs a
  · exact memoryOk_of_empty (serveReset_mem ..)

/-! The end of a run (R98). -/

/-- Exactly one of DONE and ERR is set, with its pending bit. -/
def OneEndFlag (t : State) : Prop :=
  (t.done = true ∧ t.err = false ∧ t.irqPend.done = true) ∨ (t.err = true ∧ t.done = false ∧ t.irqPend.err = true)

/-- A trap out of a run sets ERR alone, for DONE is clear while a run is in progress. -/
theorem RunOk.oneEndFlag_of_traps {e : ErrorCode} {s t : State} (hs : RunOk s) (hb : s.busy = true)
    (h : Traps e s t) : OneEndFlag t :=
  .inr ⟨h.err, h.done.trans (hs.running hb).1, h.pendErr⟩

/-- HALT sets DONE alone, for ERR is clear while a run is in progress. -/
theorem RunOk.oneEndFlag_of_halt {s : State} (hs : RunOk s) (hb : s.busy = true) : OneEndFlag (endRun (advance s)) :=
  .inl ⟨rfl, (hs.running hb).2, rfl⟩

theorem exec_oneEndFlag {i : Instr} {s t : State} (hs : RunOk s) (hb : s.busy = true) (h : exec i s = .next t)
    (ht : t.busy = false) : OneEndFlag t := by
  rcases exec_next h with ⟨-, rfl⟩ | hcommit | ⟨e, -, htrap⟩
  · exact hs.oneEndFlag_of_halt hb
  · rw [hcommit.busy, hb] at ht
    cases ht
  · exact hs.oneEndFlag_of_traps hb htrap

theorem sequencerTurn_oneEndFlag {s t : State} (hs : RunOk s) (hb : s.busy = true)
    (h : sequencerTurn exec s = .next t) (ht : t.busy = false) : OneEndFlag t := by
  rcases sequencerTurn_next h with ⟨hidle, -⟩ | ⟨-, -, rfl⟩ | ⟨w, e, -, -, -, rfl⟩ | ⟨w, i, -, -, -, -, hexec⟩
  · rw [hidle] at hb
    cases hb
  · exact hs.oneEndFlag_of_traps hb (trap_traps ..)
  · exact hs.oneEndFlag_of_traps hb (trap_traps ..)
  · exact exec_oneEndFlag hs hb hexec ht

/-- The only host access that begins or ends a run is a write of CTRL. -/
theorem serve_busy_or_writeCtrl (s : State) (a : Access) :
    (serve s a).busy = s.busy ∨ ∃ v, serve s a = writeCtrl v s := by
  cases a with
  | read addr size => exact .inl (sameCore_ite (targetRead_sameCore ..) (sameCore_with ..) : SameCore s _).busy
  | write addr size v =>
    show (busWrite addr size v s).busy = s.busy ∨ ∃ v', busWrite addr size v s = writeCtrl v' s
    unfold busWrite
    split
    · cases target addr with
      | control r =>
        cases r with
        | ctrl => exact .inr ⟨v, rfl⟩
        | cpc => exact .inl (whileIdle_sameCore (sameCore_with ..)).busy
        | id | config | status | errcode | errpc | irqEn | irqPend | retired => exact .inl rfl
      | command k => exact .inl (whileIdle_sameCore (sameCore_with ..)).busy
      | operand r k => exact .inl (whileIdle_sameCore (sameCore_with ..)).busy
      | unmapped => exact .inl rfl
    · exact .inl rfl

/-- A write of CTRL that ends a run is an ABORT, which takes the trap (R310). -/
theorem writeCtrl_oneEndFlag {v : CmdWord} {s : State} (hs : RunOk s) (hb : s.busy = true)
    (ht : (writeCtrl v s).busy = false) : OneEndFlag (writeCtrl v s) := by
  have habort : OneEndFlag (abort s) := hs.oneEndFlag_of_traps hb (abort_traps hb)
  rw [writeCtrl_eq] at ht ⊢
  split at ht
  · exact habort
  · exact habort
  · rw [start_of_busy hb, setHostErr_busy, hb] at ht
    cases ht
  · rw [hb] at ht
    cases ht

/-- Settles O12, by the turns that can end a run: a command or a failed fetch of the sequencer, and the host's ABORT. -/
theorem runEndSetsOneFlag : Obligations.RunEndSetsOneFlag := by
  intro s t hs hreset hb h ht
  have htaken : RunOk (takenTurn s) := hs.of_sameRun (takenTurn_sameCore s).toSameRun
  rcases step_next h with ⟨-, hturn⟩ | ⟨a, rest, -, -, rfl⟩ | ⟨o, rest, hagenda, -⟩
  · exact sequencerTurn_oneEndFlag htaken hb hturn ht
  · rcases serve_busy_or_writeCtrl (takenTurn s) a with hbusy | ⟨v, hctrl⟩
    · rw [hbusy] at ht
      exact absurd (hb.symm.trans ht) (by decide)
    · rw [hctrl] at ht ⊢
      exact writeCtrl_oneEndFlag htaken hb ht
  · exact absurd ⟨o, rest, hagenda⟩ hreset

/-! The two windows while idle (R83, R84). -/

theorem targetRead_command_of_idle {s : State} {k : Nat} {w : CmdWord} (hb : s.busy = false)
    (hw : readCmd s.mem k = some w) : targetRead s (.command k) = reply w s := by
  simp [targetRead, hb, hw]

theorem targetRead_operand_of_idle {s : State} (r : Reg) (k : Nat) (hb : s.busy = false) :
    targetRead s (.operand r k) = reply (regWord (s.reg r) k) s := by
  simp [targetRead, hb]

/-- Settles O45: the word's address is in the command window, and the laws of command memory say the rest. -/
theorem commandWindow : Obligations.CommandWindow := by
  intro s k v hb
  have haligned : (BitVec.ofNat 16 (0x1000 + 4 * k.toNat)).toNat % 4 = 0 := by
    rw [toNat_commandAddr]
    omega
  rw [serve_write_aligned haligned, serve_read_aligned haligned, target_commandAddr]
  exact ⟨⟨_, whileIdle_of_idle _ hb, readCmd_writeCmd_same .., fun q hq => readCmd_writeCmd_of_ne _ v hq, rfl⟩,
    fun w hw => targetRead_command_of_idle hb hw⟩

/-- Word `k` of a register value is its bits 32·k+31 to 32·k (R84). -/
theorem getLsbD_regWord {w : Nat} (v : Word w) (k b : Nat) :
    (regWord v k).getLsbD b = (decide (b < 32) && v.getLsbD (32 * k + b)) :=
  BitVec.getLsbD_extractLsb' ..

/-- A write of word `k` of a register value replaces exactly the bits of that word (R84). -/
theorem getLsbD_setRegWord {w : Nat} (v : Word w) {k : Nat} (hk : 32 * k + 32 ≤ w) (part : CmdWord) (b : Nat) :
    (setRegWord v k part).getLsbD b =
      if 32 * k ≤ b ∧ b < 32 * k + 32 then part.getLsbD (b - 32 * k) else v.getLsbD b := by
  simp only [setRegWord, BitVec.getLsbD_or, BitVec.getLsbD_and, BitVec.getLsbD_not, BitVec.getLsbD_shiftLeft,
    BitVec.getLsbD_setWidth, BitVec.getLsbD_allOnes]
  split
  next hin =>
    obtain ⟨hge, hlt⟩ := hin
    simp [show ¬b < 32 * k by omega, show b < w by omega, show b - 32 * k < 32 by omega,
      show b - 32 * k < w by omega]
  next hout =>
    have hwidth : (v.getLsbD b && decide (b < w)) = v.getLsbD b := by
      simpa using fun hset => BitVec.lt_of_getLsbD hset
    by_cases hlow : b < 32 * k
    · simpa [hlow] using hwidth
    · simpa [show ¬b - 32 * k < 32 by omega, BitVec.getLsbD_of_ge part (b - 32 * k) (by omega)] using hwidth

/-- Settles O46: the word's address names it, and a write replaces the bits of one word of one register. -/
theorem registerWindow : Obligations.RegisterWindow := by
  intro s r k v hb
  have haligned : (BitVec.ofNat 16 (0x4000 + 0x100 * r.val + 4 * k.toNat)).toNat % 4 = 0 := by
    rw [toNat_operandAddr]
    omega
  rw [serve_write_aligned haligned, serve_read_aligned haligned, target_operandAddr]
  refine ⟨⟨_, whileIdle_of_idle _ hb, fun b => ?_, fun q hq => reg_setReg_of_ne s _ hq, rfl⟩,
    ⟨_, targetRead_operand_of_idle r _ hb, fun b hbit => ?_, rfl⟩⟩
  · rw [reg_setReg_same]
    exact getLsbD_setRegWord _ (by omega) v b
  · rw [reply_readData, getLsbD_regWord, decide_eq_true hbit, Bool.true_and]

/-! Writes taken and ignored (R89, R92). -/

theorem setWidth_eq_ofNat_mod (v : CmdWord) : v.setWidth 16 = BitVec.ofNat 16 (v.toNat % 2 ^ 16) :=
  BitVec.eq_of_toNat_eq (by simp)

/-- Settles O47: the two windows by the address map, the control registers one by one. -/
theorem busyWindows : Obligations.BusyWindows := by
  refine ⟨fun s addr hb haligned => ⟨fun hwindow => ?_, ?_⟩, fun s v hb => ?_, fun s v => ?_⟩
  · rw [serve_read_aligned haligned]
    simp only [serve_write_aligned haligned]
    rcases hwindow with ⟨hge, hlt⟩ | ⟨hge, hlt⟩
    · rw [target_of_commandWindow hge hlt]
      exact ⟨fun v => whileIdle_of_busy _ hb, targetRead_sameButReadData s (by simp)⟩
    · rw [target_of_registerWindow hge hlt]
      exact ⟨fun v => whileIdle_of_busy _ hb, targetRead_sameButReadData s (by simp)⟩
  · rintro v rfl
    exact (serve_write_control .cpc s v).trans (whileIdle_of_busy _ hb)
  · refine (serve_write_control .cpc s v).trans ((whileIdle_of_idle _ hb).trans ?_)
    rw [setWidth_eq_ofNat_mod]
  · exact ⟨serve_write_control .id s v, serve_write_control .config s v, serve_write_control .errcode s v,
      serve_write_control .errpc s v, serve_write_control .retired s v⟩

/-! Accesses without a register (R88, R90). -/

/-- Settles O48: an access the port does not define, or one it does at an address of no register. -/
theorem hostProtocolViolations : Obligations.HostProtocolViolations := by
  intro s addr size h
  by_cases hok : size = 4 ∧ addr.toNat % 4 = 0
  · obtain ⟨rfl, haligned⟩ := hok
    have hgap : target addr = .unmapped := target_of_gap (by omega)
    simp only [serve_write_aligned haligned, serve_read_aligned haligned, hgap]
    exact ⟨fun _ => rfl, rfl⟩
  · have hbad : accessOk addr size = false := accessOk_eq_false (by omega)
    simp only [serve, busWrite, busRead, hbad]
    exact ⟨fun _ => rfl, rfl⟩

/-- Settles O49: a defined read changes the model's own record of it only, and only ERRCODE and ERRPC enter the record
of the error report. -/
theorem readsHaveNoSideEffect : Obligations.ReadsHaveNoSideEffect := by
  intro s addr haligned hmapped
  rw [serve_read_aligned haligned]
  refine ⟨targetRead_sameButReadData s hmapped, fun hcode hpc => ?_, ?_, ?_⟩
  · exact targetRead_reportRead s (fun h => hcode (target_eq_control_iff.1 h)) fun h => hpc (target_eq_control_iff.1 h)
  · rintro rfl
    rfl
  · rintro rfl
    rfl

end Sys2Proof.Machine
end

section
/-! PROOFS. The statements of 30_encoding.md: the two round trips of the decoder and encoder, the ILLEGAL words, the
trap of a command that has no word, and the expansion of ecsub. -/

namespace Sys2Proof

/-! The decoder row by row (R127, R128). -/

/-- The rows of the opcode map have different OPs, so the OP decides the row (R127). -/
theorem row_eq_of_op_eq {row row' : OpRow} (h : row ∈ opRows) (h' : row' ∈ opRows) (hop : row.op = row'.op) :
    row = row' :=
  List.inj_on_of_nodup_map (f := OpRow.op) (by decide) h h' hop

theorem find?_row {row : OpRow} {w : CmdWord} (hmem : row ∈ opRows) (hop : row.op = opField w) :
    opRows.find? (fun r => r.op == opField w) = some row := by
  cases hfind : opRows.find? (fun r => r.op == opField w) with
  | none => simpa [hop] using List.find?_eq_none.1 hfind row hmem
  | some r =>
    have hr : r.op = opField w := by simpa using List.find?_some hfind
    rw [row_eq_of_op_eq (List.mem_of_find?_eq_some hfind) hmem (hr.trans hop.symm)]

/-- A word with the OP of a row meets that row's checks, in the order of R128. -/
theorem decode_of_row {row : OpRow} {w : CmdWord} (hmem : row ∈ opRows) (hop : row.op = opField w) :
    decode w = if w &&& row.mask ≠ row.pattern then .error .nonZeroMbz
      else if oddPointField row w then .error .oddPoint else row.build w := by
  simp only [decode, find?_row hmem hop]

/-- A word with no row's OP is ILLEGAL (R129). -/
theorem decode_of_no_row {w : CmdWord} (h : ∀ row ∈ opRows, row.op ≠ opField w) :
    decode w = .error .unassignedOp := by
  have hfind : opRows.find? (fun r => r.op == opField w) = none := by simpa using h
  simp only [decode, hfind]

/-- A word decodes exactly where it passes the checks of a row, to the command that row makes of its fields (R128). -/
theorem decode_eq_ok_iff {w : CmdWord} {i : Instr} : decode w = .ok i ↔ ∃ row ∈ opRows, row.op = opField w ∧
    w &&& row.mask = row.pattern ∧ oddPointField row w = false ∧ row.build w = .ok i := by
  constructor
  · intro h
    by_cases hrow : ∃ row ∈ opRows, row.op = opField w
    · obtain ⟨row, hmem, hop⟩ := hrow
      rw [decode_of_row hmem hop] at h
      split_ifs at h with hfix hodd
      exact ⟨row, hmem, hop, by simpa using hfix, by simpa using hodd, h⟩
    · rw [decode_of_no_row (by simpa using hrow)] at h
      cases h
  · rintro ⟨row, hmem, hop, hfix, hodd, hbuild⟩
    rw [decode_of_row hmem hop, if_neg (not_not.2 hfix), hodd, if_neg Bool.false_ne_true, hbuild]

/-- What a row's last check refuses is ILLEGAL, whatever its other checks say. -/
theorem decode_error_of_build {row : OpRow} {w : CmdWord} {e : Illegal} (hmem : row ∈ opRows)
    (hop : row.op = opField w) (hbuild : row.build w = .error e) : ∃ e, decode w = .error e := by
  cases hd : decode w with
  | error e' => exact ⟨e', rfl⟩
  | ok i =>
    obtain ⟨row', hmem', hop', -, -, hbuild'⟩ := decode_eq_ok_iff.1 hd
    rw [row_eq_of_op_eq hmem' hmem (hop'.trans hop.symm), hbuild] at hbuild'
    cases hbuild'

/-! The fields a row's mask leaves free (R120, R129). -/

theorem and_not_eq_self {n : Nat} {x y : BitVec n} (h : x &&& y = 0) : x &&& ~~~y = x := by
  have hor : x &&& y ||| x &&& ~~~y = x := by
    rw [← BitVec.and_or_distrib_left, BitVec.or_not_self, BitVec.and_allOnes]
  simpa [h] using hor

/-- Every bit of OP is fixed (R127). -/
theorem and_opMask (op : BitVec 6) : op &&& 0x3F = op := BitVec.and_allOnes

/-- The value of a register field that a row leaves free, or requires to be zero. -/
def freeField (free : Bool) (f : RegField) : RegField := bif free then f else 0

/-- The mask of a register field that a row leaves free, or requires to be zero. -/
def maskField (free : Bool) : RegField := bif free then 0 else 0xF

theorem freeField_eq_self {free : Bool} {f : RegField} (h : f &&& maskField free = 0) : freeField free f = f := by
  cases free with
  | true => rfl
  | false => exact h.symm.trans BitVec.and_allOnes

/-- A format R word with a row's fixed bits is made of the row's OP, its register fields where the row leaves them free,
and the bits of FN outside the mask. -/
theorem packR_of_fixedBits {w m p : CmdWord} {fn fn' : BitVec 10} (op : BitVec 6) (rd ra rb rm : Bool)
    (h : w &&& m = p) (hfn : fn = fnField w &&& ~~~fn')
    (hm : m = packR 0x3F (maskField rd) (maskField ra) (maskField rb) (maskField rm) fn' := by decide)
    (hp : p = packR op 0 0 0 0 0 := by decide) :
    packR op (freeField rd (rdField w)) (freeField ra (raField w)) (freeField rb (rbField w))
      (freeField rm (rmField w)) fn = w := by
  rw [hm, hp, ← packR_fields w, packR_and, packR_inj] at h
  obtain ⟨hop, hrd, hra, hrb, hrm, hfnz⟩ := h
  rw [and_opMask] at hop
  rw [freeField_eq_self hrd, freeField_eq_self hra, freeField_eq_self hrb, freeField_eq_self hrm, hfn,
    and_not_eq_self hfnz, ← hop, packR_fields]

theorem zeroField_append (op : BitVec 6) (rd : RegField) (z : BitVec 6) (imm : BitVec 16) :
    zeroField (op ++ rd ++ z ++ imm) = z := by
  refine BitVec.eq_of_getLsbD_eq fun i hi => ?_
  simp only [zeroField, BitVec.getLsbD_extractLsb', BitVec.getLsbD_append, hi, decide_true, Bool.true_and]
  rw [if_neg (by omega), if_pos (by omega), Nat.add_sub_cancel_left]

/-- The same for a format I word, whose immediate is free. -/
theorem packI_of_fixedBits {w m p : CmdWord} (op : BitVec 6) (rd : Bool) (h : w &&& m = p)
    (hm : m = (0x3F : BitVec 6) ++ maskField rd ++ (0x3F : BitVec 6) ++ 0#16 := by decide)
    (hp : p = packI op 0 0 := by decide) :
    packI op (freeField rd (rdField w)) (immField w) = w := by
  have hzero : zeroField w = 0 := by
    have hz : zeroField w &&& zeroField m = zeroField p := by rw [← h]; exact BitVec.extractLsb'_and.symm
    rwa [hm, hp, packI, zeroField_append, zeroField_append, and_opMask] at hz
  rw [hm, hp, ← packI_fields w hzero, packI_and, and_opMask] at h
  have hop : opField w = op := by simpa using congrArg opField h
  have hrd : rdField w &&& maskField rd = 0 := by simpa using congrArg rdField h
  rw [freeField_eq_self hrd, ← hop, packI_fields w hzero]

/-- FN is zero where all of it must be (R123). -/
theorem zero_eq_fnField (w : CmdWord) : 0 = fnField w &&& ~~~0x3FF := (BitVec.and_zero ..).symm

/-- CGET's selector is all of FN outside its must-be-zero bits (R125). -/
theorem setWidth_selField (w : CmdWord) : (selField w).setWidth 10 = fnField w &&& ~~~0x3F8 := by
  show _ = fnField w &&& 7
  refine BitVec.eq_of_toNat_eq ?_
  simp [selField, fnField, Nat.and_two_pow_sub_one_eq_mod _ 3]
  omega

/-- The NEG modifier is all of FN outside its must-be-zero bits (R125). -/
theorem negFn_negField (w : CmdWord) : negFn (negField w) = fnField w &&& ~~~0x3FE := by
  show _ = fnField w &&& 1#10
  have hneg : negField w = (fnField w).getLsbD 0 := by simp [fnField, negField]
  rw [hneg, BitVec.and_one_eq_setWidth_ofBool_getLsbD]
  cases (fnField w).getLsbD 0 <;> rfl

@[simp] theorem getElem_negFn (neg : Bool) : (negFn neg)[0] = neg := by cases neg <;> rfl

/-! A command from its word. -/

/-- The row is the one of the command's word and, where the command is well-formed, finds no odd point field in that
word and makes the command of its fields. -/
def ReadsBack (row : OpRow) (i : Instr) : Prop :=
  row.op = opField (encode i) ∧
    (i.wf = true → oddPointField row (encode i) = false ∧ row.build (encode i) = .ok i)

/-- A well-formed command decodes from its word, which carries a row's fixed bits, where the row numbered `k` reads it
back. Reading back is by the fields of a packed word. -/
theorem decode_encode_of_readsBack {i : Instr} (hwf : i.wf = true) (k : Nat) (hfix : Laws.FixedBits.Statement i)
    (hk : k < opRows.length := by decide)
    (h : ReadsBack opRows[k] i := by
      simp +contextual [ReadsBack, opRows, encode, oddPointField, Instr.wf, buildCsel, buildCget]) :
    decode (encode i) = .ok i := by
  obtain ⟨hop, hread⟩ := h
  obtain ⟨hodd, hbuild⟩ := hread hwf
  obtain ⟨row, hmem, hrow, hbits⟩ := hfix
  rw [row_eq_of_op_eq hmem (List.getElem_mem hk) (hrow.trans hop.symm)] at hbits
  exact decode_eq_ok_iff.2 ⟨_, List.getElem_mem hk, hop, hbits, hodd, hbuild⟩

/-- Settles O2: each command by its row of the map. -/
theorem decodeInvertsEncode : Obligations.DecodeInvertsEncode := by
  intro i hwf
  cases i with
  | nop => exact decode_encode_of_readsBack hwf 0 Laws.FixedBits.nop
  | halt => exact decode_encode_of_readsBack hwf 1 Laws.FixedBits.halt
  | mov rd ra => exact decode_encode_of_readsBack hwf 2 (Laws.FixedBits.mov rd ra)
  | ldi rd imm => exact decode_encode_of_readsBack hwf 3 (Laws.FixedBits.ldi rd imm)
  | modmul rd ra rb rm => exact decode_encode_of_readsBack hwf 4 (Laws.FixedBits.modmul rd ra rb rm)
  | modexp rd ra rb rm => exact decode_encode_of_readsBack hwf 5 (Laws.FixedBits.modexp rd ra rb rm)
  | modinv rd ra rm => exact decode_encode_of_readsBack hwf 6 (Laws.FixedBits.modinv rd ra rm)
  | modsqrt rd ra rm => exact decode_encode_of_readsBack hwf 7 (Laws.FixedBits.modsqrt rd ra rm)
  | csel imm => exact decode_encode_of_readsBack hwf 8 (Laws.FixedBits.csel imm)
  | cld ra rb rm => exact decode_encode_of_readsBack hwf 9 (Laws.FixedBits.cld ra rb rm)
  | cget rd sel => exact decode_encode_of_readsBack hwf 10 (Laws.FixedBits.cget rd sel)
  | ecadd pd pa pb => exact decode_encode_of_readsBack hwf 11 (Laws.FixedBits.ecadd pd pa pb)
  | ecdbl pd pa => exact decode_encode_of_readsBack hwf 12 (Laws.FixedBits.ecdbl pd pa)
  | ecneg pd pa => exact decode_encode_of_readsBack hwf 13 (Laws.FixedBits.ecneg pd pa)
  | ecmul pd pa rb neg => exact decode_encode_of_readsBack hwf 14 (Laws.FixedBits.ecmul pd pa rb neg)
  | ecmulg pd rb neg => exact decode_encode_of_readsBack hwf 15 (Laws.FixedBits.ecmulg pd rb neg)
  | mkey ra rb => exact decode_encode_of_readsBack hwf 16 (Laws.FixedBits.mkey ra rb)
  | menc rd ra => exact decode_encode_of_readsBack hwf 17 (Laws.FixedBits.menc rd ra)
  | mdec rd ra => exact decode_encode_of_readsBack hwf 18 (Laws.FixedBits.mdec rd ra)

/-! A word from its command. -/

theorem buildCsel_eq_ok_iff {w : CmdWord} {i : Instr} :
    buildCsel w = .ok i ↔ curveIdOk (immField w) = true ∧ .csel (immField w) = i := by
  unfold buildCsel
  split_ifs with h <;> simp [h]

theorem buildCget_eq_ok_iff {w : CmdWord} {i : Instr} :
    buildCget w = .ok i ↔ selectorOk (selField w) = true ∧ .cget (rdReg w) (selField w) = i := by
  unfold buildCget
  split_ifs with h <;> simp [h]

/-- The commands a row makes of the words that pass its checks have those words, and are well-formed. -/
def RowInverts (row : OpRow) : Prop :=
  ∀ w i, w &&& row.mask = row.pattern → oddPointField row w = false → row.build w = .ok i → encode i = w ∧ i.wf = true

theorem RowInverts.of_ok {row : OpRow} {f : CmdWord → Instr} (hbuild : row.build = fun w => .ok (f w))
    (hword : ∀ w, w &&& row.mask = row.pattern → encode (f w) = w)
    (hwf : ∀ w, oddPointField row w = false → (f w).wf = true) : RowInverts row := by
  intro w i hfix hodd hok
  rw [hbuild] at hok
  cases hok
  exact ⟨hword w hfix, hwf w hodd⟩

/-- Every row of the map inverts: its mask leaves free exactly the fields its command is made of. -/
theorem opRows_invert : ∀ row ∈ opRows, RowInverts row := by
  simp only [opRows, List.forall_mem_cons]
  refine ⟨?nop, ?halt, ?mov, ?ldi, ?modmul, ?modexp, ?modinv, ?modsqrt, ?csel, ?cld, ?cget, ?ecadd, ?ecdbl, ?ecneg,
    ?ecmul, ?ecmulg, ?mkey, ?menc, ?mdec, by simp⟩
  case nop =>
    exact .of_ok rfl (fun w h => packR_of_fixedBits 1 false false false false h (zero_eq_fnField w)) fun _ _ => rfl
  case halt =>
    exact .of_ok rfl (fun w h => packR_of_fixedBits 2 false false false false h (zero_eq_fnField w)) fun _ _ => rfl
  case mov =>
    exact .of_ok rfl (fun w h => packR_of_fixedBits 3 true true false false h (zero_eq_fnField w)) fun _ _ => rfl
  case ldi =>
    exact .of_ok rfl (fun w h => packI_of_fixedBits 4 true h) fun _ _ => rfl
  case modmul =>
    exact .of_ok rfl (fun w h => packR_of_fixedBits 8 true true true true h (zero_eq_fnField w)) fun _ _ => rfl
  case modexp =>
    exact .of_ok rfl (fun w h => packR_of_fixedBits 9 true true true true h (zero_eq_fnField w)) fun _ _ => rfl
  case modinv =>
    exact .of_ok rfl (fun w h => packR_of_fixedBits 0xA true true false true h (zero_eq_fnField w)) fun _ _ => rfl
  case modsqrt =>
    exact .of_ok rfl (fun w h => packR_of_fixedBits 0xB true true false true h (zero_eq_fnField w)) fun _ _ => rfl
  case csel =>
    intro w i h _ hb
    obtain ⟨hid, rfl⟩ := buildCsel_eq_ok_iff.1 hb
    exact ⟨packI_of_fixedBits 0x10 false h, hid⟩
  case cld =>
    exact .of_ok rfl (fun w h => packR_of_fixedBits 0x11 false true true true h (zero_eq_fnField w)) fun _ _ => rfl
  case cget =>
    intro w i h _ hb
    obtain ⟨hsel, rfl⟩ := buildCget_eq_ok_iff.1 hb
    exact ⟨packR_of_fixedBits 0x12 true false false false h (setWidth_selField w), hsel⟩
  case ecadd =>
    refine .of_ok rfl (fun w h => packR_of_fixedBits 0x13 true true true false h (zero_eq_fnField w)) fun w h => ?_
    simpa [oddPointField, Instr.wf] using h
  case ecdbl =>
    refine .of_ok rfl (fun w h => packR_of_fixedBits 0x14 true true false false h (zero_eq_fnField w)) fun w h => ?_
    simpa [oddPointField, Instr.wf] using h
  case ecneg =>
    refine .of_ok rfl (fun w h => packR_of_fixedBits 0x15 true true false false h (zero_eq_fnField w)) fun w h => ?_
    simpa [oddPointField, Instr.wf] using h
  case ecmul =>
    refine .of_ok rfl (fun w h => packR_of_fixedBits 0x16 true true true false h (negFn_negField w)) fun w h => ?_
    simpa [oddPointField, Instr.wf] using h
  case ecmulg =>
    refine .of_ok rfl (fun w h => packR_of_fixedBits 0x17 true false true false h (negFn_negField w)) fun w h => ?_
    simpa [oddPointField, Instr.wf] using h
  case mkey =>
    exact .of_ok rfl (fun w h => packR_of_fixedBits 0x20 false true true false h (zero_eq_fnField w)) fun _ _ => rfl
  case menc =>
    exact .of_ok rfl (fun w h => packR_of_fixedBits 0x21 true true false false h (zero_eq_fnField w)) fun _ _ => rfl
  case mdec =>
    exact .of_ok rfl (fun w h => packR_of_fixedBits 0x22 true true false false h (zero_eq_fnField w)) fun _ _ => rfl

/-- Settles O3: the word has passed the checks of a row, and every row inverts. -/
theorem encodeInvertsDecode : Obligations.EncodeInvertsDecode := by
  intro w i h
  obtain ⟨row, hmem, -, hfix, hodd, hbuild⟩ := decode_eq_ok_iff.1 h
  exact opRows_invert row hmem w i hfix hodd hbuild

/-! ILLEGAL words (R129). -/

/-- CSEL's row refuses an id other than 1 and 2. -/
theorem buildCsel_error {w : CmdWord} (h₁ : immField w ≠ 1) (h₂ : immField w ≠ 2) :
    buildCsel w = .error .badCurveId := if_neg (by simpa [curveIdOk] using ⟨h₁, h₂⟩)

/-- CGET's row refuses the selectors 6 and 7. -/
theorem buildCget_error {w : CmdWord} (h : selField w = 6 ∨ selField w = 7) :
    buildCget w = .error .badSelector := by rcases h with h | h <;> simp [buildCget, selectorOk, h]

/-- Settles O4, one clause per case of R129. -/
theorem illegalEncodingsRejected : Obligations.IllegalEncodingsRejected := by
  intro w
  refine ⟨decode_of_no_row, fun hzero => decode_of_no_row ?_, fun row hmem hop hbits => ?_,
    fun row hmem hop hbits hodd => ?_, fun hop h₁ h₂ => ?_, fun hop hsel => ?_⟩
  · rw [hzero]
    decide
  · rw [decode_of_row hmem hop, if_pos hbits]
  · rw [decode_of_row hmem hop, if_neg (not_not.2 hbits), if_pos hodd]
  · exact decode_error_of_build (row := opRows[8]) (List.getElem_mem _) hop.symm (buildCsel_error h₁ h₂)
  · exact decode_error_of_build (row := opRows[10]) (List.getElem_mem _) hop.symm (buildCget_error hsel)

/-- Settles O1, by decoding each word. -/
theorem decodeOfSpecWords : Obligations.DecodeOfSpecWords := by
  unfold Obligations.DecodeOfSpecWords
  decide

end Sys2Proof

namespace Sys2Proof.Machine

variable {w nreg ncmd : Nat}

/-! A command without an encoding (R128, R129). -/

theorem checkLegal_ok {legal : Bool} (h : legal = true) : checkLegal legal = .ok () := if_pos h

/-- A command that fails the legality check runs none of its later checks. -/
theorem finish_illegal {s : State.Of w nreg ncmd} {legal : Bool} (h : legal = false)
    (rest : Unit → Except ErrorCode (State.Of w nreg ncmd)) :
    finish s (checkLegal legal >>= rest) = .next (trap .illegal s) := by
  subst h
  rfl

theorem raises_illegal {i : Instr} {s : State} {rest : Unit → Except ErrorCode State}
    (hexec : exec i s = finish s (checkLegal i.wf >>= rest)) (hwf : i.wf = false) : Raises .illegal i s :=
  ⟨_, hexec.trans (finish_illegal hwf rest), trap_traps .illegal s⟩

/-- Settles O5: the commands with a constraint check it before anything else, and the others are all well-formed. -/
theorem illFormedCommandTraps : Obligations.IllFormedCommandTraps := by
  intro i s hwf
  cases i with
  | csel imm => exact raises_illegal rfl hwf
  | cget rd sel => exact raises_illegal rfl hwf
  | ecadd pd pa pb => exact raises_illegal rfl hwf
  | ecdbl pd pa => exact raises_illegal rfl hwf
  | ecneg pd pa => exact raises_illegal rfl hwf
  | ecmul pd pa rb neg => exact raises_illegal rfl hwf
  | ecmulg pd rb neg => exact raises_illegal rfl hwf
  | nop | halt | mov | ldi | modmul | modexp | modinv | modsqrt | cld | mkey | menc | mdec => cases hwf

/-! ecsub (R134). -/

/-- ECNEG of a point in a loaded context (R223). -/
theorem execEcneg_writesPoint {pd pa : Reg nreg} {s : State.Of w nreg ncmd} {p : Point} (hr : 2 ≤ nreg)
    (heven : (evenReg pd && evenReg pa) = true) (hc : s.curve.id ≠ .none) (hp : ReadsPoint s pa p) :
    ∃ t, execEcneg pd pa s = .next t ∧ WritesPoint pd (ecNeg s.prime p) s t := by
  refine ⟨_, ?_, writesPoint_writePoint hr (ecNeg_reduced hp.2)⟩
  rw [execEcneg, checkLegal_ok heven, checkCurve_ok hc, readPoint_ok hp]
  rfl

/-- ECADD of two points in a loaded context, where their sum exists (R221). -/
theorem execEcadd_writesPoint {pd pa pb : Reg nreg} {s : State.Of w nreg ncmd} {p q r : Point} (hr : 2 ≤ nreg)
    (heven : (evenReg pd && evenReg pa && evenReg pb) = true) (hc : s.curve.id ≠ .none) (hp : ReadsPoint s pa p)
    (hq : ReadsPoint s pb q) (hsum : ecAdd s.prime s.coeffA p q = .ok r) :
    ∃ t, execEcadd pd pa pb s = .next t ∧ WritesPoint pd r s t := by
  refine ⟨_, ?_, writesPoint_writePoint hr (ecAdd_reduced hp.2 hq.2 hsum)⟩
  rw [execEcadd, checkLegal_ok heven, checkCurve_ok hc, readPoint_ok hp, readPoint_ok hq]
  simp only [bind, Except.bind, hsum, finish_ok]

theorem prime_eq_of_curve {s t : State.Of w nreg ncmd} (h : t.curve = s.curve) : t.prime = s.prime := by
  rw [State.Of.prime, h, State.Of.prime]

theorem coeffA_eq_of_curve {s t : State.Of w nreg ncmd} (h : t.curve = s.curve) : t.coeffA = s.coeffA := by
  rw [State.Of.coeffA, h, State.Of.coeffA]

/-- A point command's result is an operand the next one accepts. -/
theorem WritesPoint.readsPoint_same {pd : Reg nreg} {p : Point} {s t : State.Of w nreg ncmd}
    (h : WritesPoint pd p s t) (hp : Reduced s.prime p) : ReadsPoint t pd p :=
  ⟨h.result, by rwa [prime_eq_of_curve h.curve]⟩

/-- Two register pairs are the same or have no register in common (R121). -/
theorem pairs_disjoint {r q : Reg} (hr : evenReg r = true) (hq : evenReg q = true) (hne : r ≠ q) :
    r ≠ pairSnd q ∧ pairSnd r ≠ q ∧ pairSnd r ≠ pairSnd q := by
  have hr' := pairSnd_val hr (by decide)
  have hq' := pairSnd_val hq (by decide)
  simp only [evenReg, beq_iff_eq] at hr hq
  simp only [ne_eq, Fin.ext_iff] at hne ⊢
  omega

/-- A point command leaves the points in the other pairs. -/
theorem WritesPoint.readsPoint_of_ne {pd r : Reg} {p q : Point} {s t : State} (h : WritesPoint pd p s t)
    (hpd : evenReg pd = true) (hr : evenReg r = true) (hne : r ≠ pd) (hq : ReadsPoint s r q) : ReadsPoint t r q := by
  obtain ⟨hfst, hsnd, hboth⟩ := pairs_disjoint hr hpd hne
  have h₁ := h.others r hne hfst
  have h₂ := h.others (pairSnd r) hsnd hboth
  obtain ⟨hold, hred⟩ := hq
  refine ⟨?_, by rwa [prime_eq_of_curve h.curve]⟩
  cases q <;> simpa only [HoldsPoint, State.Of.val, h₁, h₂] using hold

/-- A pair holds one point that the point commands accept. -/
theorem ReadsPoint.unique {r : Reg nreg} {p q : Point} {s : State.Of w nreg ncmd} (hp : ReadsPoint s r p)
    (hq : ReadsPoint s r q) : p = q :=
  Except.ok.inj ((readPoint_ok hp).symm.trans (readPoint_ok hq))

/-- The two commands of `ecsub` leave P' + (−Q), where P' is the point the first of them leaves in pa. -/
theorem ecneg_then_ecadd {pd pa pb pt : Reg} {s : State} {p' q r : Point}
    (hneg : (evenReg pt && evenReg pb) = true) (hadd : (evenReg pd && evenReg pa && evenReg pt) = true)
    (hc : s.curve.id ≠ .none) (hq : ReadsPoint s pb q)
    (hpa : ∀ t, WritesPoint pt (ecNeg s.prime q) s t → ReadsPoint t pa p')
    (hsum : ecAdd s.prime s.coeffA p' (ecNeg s.prime q) = .ok r) :
    ∃ t u, exec (.ecneg pt pb) s = .next t ∧ exec (.ecadd pd pa pt) t = .next u ∧ HoldsPoint u pd r := by
  obtain ⟨t, ht, hw⟩ := execEcneg_writesPoint (pd := pt) (by decide) hneg hc hq
  obtain ⟨u, hu, hw'⟩ := execEcadd_writesPoint (pd := pd) (r := r) (by decide) hadd (by rwa [hw.curve]) (hpa t hw)
    (hw.readsPoint_same (ecNeg_reduced hq.2)) (by rwa [prime_eq_of_curve hw.curve, coeffA_eq_of_curve hw.curve])
  exact ⟨t, u, ht, hu, hw'.result⟩

/-- Settles O39: with a scratch pair of its own pa still holds P when ECADD reads it; where the three pairs are one,
ECNEG has put −P there. -/
theorem ecsubExpansion : Obligations.EcsubExpansion := by
  intro pd pa pb pt s p q r hwf hc hp hq
  simp only [Pseudo.wf, Bool.and_eq_true] at hwf
  obtain ⟨⟨⟨⟨hpd, hpa⟩, hpb⟩, hpt⟩, -⟩ := hwf
  refine ⟨rfl, fun hne hsum => ?_, ?_⟩
  · exact ecneg_then_ecadd (by simp [hpt, hpb]) (by simp [hpd, hpa, hpt]) hc hq
      (fun t ht => ht.readsPoint_of_ne hpt hpa hne.symm hp) hsum
  · rintro rfl rfl hsum
    obtain rfl := hp.unique hq
    exact ecneg_then_ecadd (by simp [hpt]) (by simp [hpd, hpt]) hc hq
      (fun t ht => ht.readsPoint_same (ecNeg_reduced hq.2)) hsum

end Sys2Proof.Machine
end

section
/-! PROOFS. The statements of 40_sequencer.md: what a step does on the sequencer's turn and on the host's, and the
results of NOP, MOV, LDI and HALT. -/

namespace Sys2Proof.Machine

variable {w nreg ncmd : Nat}

/-! The turn a step takes (R22, R355). -/

/-- Where the agenda is empty there is no entry to take. -/
theorem takenTurn_of_nil {s : State} (h : s.agenda = []) : takenTurn s = s := by
  cases s
  cases h
  rfl

theorem takenTurn_of_cons {s : State} {turn : Turn} {rest : List Turn} (h : s.agenda = turn :: rest) :
    takenTurn s = { s with agenda := rest } := by
  rw [takenTurn, h, List.tail_cons]

theorem step_of_cons {s : State} {turn : Turn} {rest : List Turn} (h : s.agenda = turn :: rest) :
    step s = takeTurn exec turn (takenTurn s) := by
  rw [takenTurn_of_cons h, step, nextTurn, h]

theorem step_of_nextIsSequencer {s : State} (h : nextIsSequencer s) : step s = sequencerTurn exec (takenTurn s) := by
  rcases h with hnil | ⟨rest, hcons⟩
  · rw [takenTurn_of_nil hnil, step, nextTurn, hnil]
  · exact step_of_cons hcons

/-- A host transaction that loses no unread error report is served (R80). -/
theorem takeTurn_bus_of_keepsReport {s : State} {a : Access} (h : losesReport s a = false) :
    takeTurn exec (.bus a) s = .next (serve s a) := by
  rw [takeTurn, h]
  rfl

/-! The sequencer's turns that run no command (R150, R153, R128); `sequencerTurn_run` is the one that does. -/

section turns

variable {execute : Instr → State.Of w nreg ncmd → Result w nreg ncmd} {s : State.Of w nreg ncmd}

theorem sequencerTurn_of_idle (hb : s.busy = false) : sequencerTurn execute s = .next s := by
  simp [sequencerTurn, hb]

theorem sequencerTurn_of_pcRange (hb : s.busy = true) (hc : ncmd ≤ s.cpc.toNat) :
    sequencerTurn execute s = .next (trap .pcRange s) := by
  rw [sequencerTurn, if_pos hb, if_pos hc]

theorem sequencerTurn_of_illegal {word : CmdWord} {e : Illegal} (hb : s.busy = true) (hc : s.cpc.toNat < ncmd)
    (hw : readCmd s.mem s.cpc.toNat = some word) (hd : decode word = .error e) :
    sequencerTurn execute s = .next (trap .illegal s) := by
  simp [sequencerTurn, hb, Nat.not_le.2 hc, hw, hd]

end turns

/-- Settles O6, by the turn at the head of the agenda. -/
theorem stepRunsDecodedCommand : Obligations.StepRunsDecodedCommand := by
  refine ⟨fun s word i hseq hb hc hw hd => ?_, fun s a rest hagenda hkeeps => ?_⟩
  · exact (step_of_nextIsSequencer hseq).trans (sequencerTurn_run hb hc hw hd)
  · exact (step_of_cons hagenda).trans (takeTurn_bus_of_keepsReport hkeeps)

/-- Settles O7, by the branches of the sequencer's turn in the order R302 tests them. -/
theorem fetchAndDecodeTraps : Obligations.FetchAndDecodeTraps := by
  intro s hseq
  rw [step_of_nextIsSequencer hseq]
  refine ⟨fun hb hc => ?_, fun word e hb hc hw hd => ?_, fun hb => ?_⟩
  · exact ⟨_, sequencerTurn_of_pcRange hb hc, trap_traps ..⟩
  · exact ⟨_, sequencerTurn_of_illegal hb hc hw hd, trap_traps ..⟩
  · exact sequencerTurn_of_idle hb

/-! The sequencer's own commands (R158 to R161). -/

/-- The pointer and the counter are not on the host's side: advancing them alone is a commit (R154, R155). -/
theorem commits_advance (s : State.Of w nreg ncmd) : Commits s (advance s) :=
  advance_commits (readyToCommit_units s s.regs s.qr s.curve s.key).toSameHostSide rfl rfl

theorem exec_nop (s : State) : exec .nop s = .next (advance s) := rfl

theorem exec_halt (s : State) : exec .halt s = .next (endRun (advance s)) := rfl

theorem exec_mov (rd ra : Reg) (s : State) : exec (.mov rd ra) s = .next (advance (s.setReg rd (s.reg ra))) := rfl

theorem exec_ldi (rd : Reg) (imm : BitVec 16) (s : State) :
    exec (.ldi rd imm) s = .next (advance (s.setReg rd (zextImm imm))) := rfl

/-- The zero-extended immediate is the word of its number (R125). -/
theorem zextImm_eq_toWord (imm : BitVec 16) : (zextImm imm : Word w) = toWord imm.toNat :=
  (BitVec.ofNat_toNat w imm).symm

/-- An immediate fits every register of at least 16 bits. -/
theorem toNat_zextImm (imm : BitVec 16) (hw : 16 ≤ w) : (zextImm imm : Word w).toNat = imm.toNat :=
  BitVec.toNat_setWidth_of_le hw

/-- Settles O15: NOP advances, and MOV and LDI are each the commit of one register write. -/
theorem nopMovLdiResults : Obligations.NopMovLdiResults := by
  intro s
  refine ⟨⟨_, exec_nop s, commits_advance s, fun _ => rfl, ⟨rfl, rfl, rfl⟩⟩, fun rd ra => ?_, fun rd imm => ?_⟩
  · exact ⟨_, exec_mov rd ra s, writesReg_setReg ..⟩
  · have hwrites := writesReg_setReg s rd (zextImm imm)
    refine ⟨_, exec_ldi rd imm s, zextImm_eq_toWord imm ▸ hwrites, ?_⟩
    rw [State.Of.val, hwrites.result, toNat_zextImm imm (by decide)]

/-- Settles O16: the end of the run (R156) on top of the advance; a run has no error, so its report is empty. -/
theorem haltEndsRun : Obligations.HaltEndsRun := by
  intro s
  refine ⟨_, exec_halt s, rfl, rfl, rfl, rfl, rfl, rfl, fun _ => rfl, fun _ => rfl, ⟨rfl, rfl, rfl⟩, rfl, rfl, rfl, rfl,
    rfl, rfl, rfl, rfl, rfl, fun hok hb => ?_⟩
  obtain ⟨-, herr⟩ := hok.running hb
  exact hok.noReport herr

end Sys2Proof.Machine
end

section
/-! PROOFS. The statements of 41_modular.md: the modulus check before everything else, and what the four commands of the
modular unit write or raise. -/

namespace Sys2Proof.Machine

variable {w nreg ncmd : Nat}

/-! The checks (R180, R186, R187). -/

theorem checkInvertible_ok {a m : Nat} (h : Nat.gcd (a % m) m = 1) : checkInvertible a m = .ok () :=
  if_neg (not_not.2 h)

theorem checkInvertible_error {a m : Nat} (h : Nat.gcd (a % m) m ≠ 1) : checkInvertible a m = .error .notInvertible :=
  if_pos h

theorem checkSqrtModulus_ok {p : Nat} (h : p % 4 = 3) : checkSqrtModulus p = .ok () := if_neg (not_not.2 h)

theorem checkSqrtModulus_error {p : Nat} (h : p % 4 ≠ 3) : checkSqrtModulus p = .error .sqrtModulus := if_pos h

theorem goodModulus_of_mod_four {p : Nat} (h : p % 4 = 3) : GoodModulus p := ⟨by omega, by omega⟩

theorem GoodModulus.pos {m : Nat} (h : GoodModulus m) : 0 < m := by
  obtain ⟨hthree, -⟩ := h
  omega

theorem raises_of_error {e : ErrorCode} {i : Instr} {s : State} (hexec : exec i s = finish s (.error e)) :
    Raises e i s :=
  ⟨_, hexec, trap_traps e s⟩

/-- A command that checks its modulus first raises E_BAD_MODULUS, whatever it does next (R180). -/
theorem raises_badModulus {i : Instr} {s : State} {m : Nat} {rest : Unit → Except ErrorCode State}
    (hbad : ¬GoodModulus m) (hexec : exec i s = finish s (checkModulus m >>= rest)) : Raises .badModulus i s := by
  rw [checkModulus_error hbad] at hexec
  exact raises_of_error hexec

/-- Settles O17: the four commands of the unit and CLD begin with the check of their modulus. -/
theorem badModulusTraps : Obligations.BadModulusTraps := fun _ _ _ _ _ hbad =>
  ⟨raises_badModulus hbad rfl, raises_badModulus hbad rfl, raises_badModulus hbad rfl, raises_badModulus hbad rfl,
    raises_badModulus hbad rfl⟩

/-! The commands with a modulus that passes its check. -/

section commands

variable {rd ra rb rm : Reg} {s : State}

theorem exec_modmul (h : GoodModulus (s.val rm)) :
    exec (.modmul rd ra rb rm) s = .next (advance (s.setVal rd (s.val ra * s.val rb % s.val rm))) := by
  rw [exec, execModmul, checkModulus_ok h]
  rfl

theorem exec_modexp (h : GoodModulus (s.val rm)) :
    exec (.modexp rd ra rb rm) s = .next (advance (s.setVal rd (s.val ra ^ s.val rb % s.val rm))) := by
  rw [exec, execModexp, checkModulus_ok h, powMod_eq]
  rfl

theorem exec_modinv_of_invertible (h : GoodModulus (s.val rm)) (hgcd : Nat.gcd (s.val ra % s.val rm) (s.val rm) = 1) :
    exec (.modinv rd ra rm) s = .next (advance (s.setVal rd (invMod (s.val ra) (s.val rm)))) := by
  rw [exec, execModinv, checkModulus_ok h, checkInvertible_ok hgcd]
  rfl

theorem exec_modinv_of_not_invertible (h : GoodModulus (s.val rm))
    (hgcd : Nat.gcd (s.val ra % s.val rm) (s.val rm) ≠ 1) :
    exec (.modinv rd ra rm) s = finish s (.error .notInvertible) := by
  rw [exec, execModinv, checkModulus_ok h, checkInvertible_error hgcd]
  rfl

theorem sqrtMod_eq (a p : Nat) : sqrtMod a p = a ^ ((p + 1) / 4) % p := powMod_eq ..

theorem exec_modsqrt_of_mod_four (h : s.val rm % 4 = 3) :
    exec (.modsqrt rd ra rm) s = .next (advance
      { s.setVal rd (sqrtMod (s.val ra) (s.val rm)) with
        qr := qrOf (sqrtMod (s.val ra) (s.val rm)) (s.val ra) (s.val rm) }) := by
  rw [exec, execModsqrt, checkModulus_ok (goodModulus_of_mod_four h), checkSqrtModulus_ok h]
  rfl

theorem exec_modsqrt_of_not_mod_four (h : GoodModulus (s.val rm)) (h4 : s.val rm % 4 ≠ 3) :
    exec (.modsqrt rd ra rm) s = finish s (.error .sqrtModulus) := by
  rw [exec, execModsqrt, checkModulus_ok h, checkSqrtModulus_error h4]
  rfl

/-- The commit of a residue of a modulus that a register holds: the residue fits the register, so it is the value
read back. -/
theorem writes_residue {i : Instr} {n : Nat} (hexec : exec i s = .next (advance (s.setVal rd n)))
    (hn : n < s.val rm) :
    ∃ t, exec i s = .next t ∧ WritesReg rd (toWord n) s t ∧ t.val rd = n :=
  ⟨_, hexec, writesReg_setReg .., val_setVal_same s rd (hn.trans (val_lt s rm))⟩

end commands

/-! Products and powers (R182, R183). -/

/-- A register write, with the value named by the register that holds it afterwards. -/
theorem WritesReg.self {rd : Reg nreg} {v : Word w} {s t : State.Of w nreg ncmd} (h : WritesReg rd v s t) :
    WritesReg rd (t.reg rd) s t :=
  h.result.symm ▸ h

/-- Settles O18: the product's residue is what MODMUL commits. -/
theorem modmulResult : Obligations.ModmulResult := fun _ _ _ _ _ h => writes_residue (exec_modmul h) (Nat.mod_lt _ h.pos)

/-- Settles O19: the loop of R183 is exponentiation (`powMod_eq`), so the power's residue is what MODEXP commits. -/
theorem modexpIsPower : Obligations.ModexpIsPower := by
  intro rd ra rb rm s h
  obtain ⟨t, hexec, hwrites, hval⟩ :=
    writes_residue (exec_modexp (rd := rd) (ra := ra) (rb := rb) h) (Nat.mod_lt _ h.pos)
  exact ⟨t, hexec, hwrites.self, hval⟩

/-! Inverses (R185, R186). -/

/-- Two residues with the same product with an invertible value are the same. -/
theorem eq_of_mul_mod_eq {a m u v : Nat} (hgcd : Nat.gcd (a % m) m = 1) (hu : u < m) (hv : v < m)
    (h : a * u % m = a * v % m) : u = v := by
  have hcop : Nat.gcd m a = 1 := by rwa [Nat.gcd_rec]
  exact (Nat.ModEq.cancel_left_of_coprime hcop h).eq_of_lt_of_lt hu hv

/-- Settles O20: the extended Euclidean algorithm gives an inverse (`mul_invMod`), which is not 0 and is the only one
below the modulus. -/
theorem modinvIsInverse : Obligations.ModinvIsInverse := by
  intro rd ra rm s h hgcd
  have hlt := invMod_lt (s.val ra) h.pos
  have hmul := mul_invMod (s.val ra) (s.val rm) (lt_of_lt_of_le (by decide) h.1) hgcd
  obtain ⟨t, hexec, hwrites, hval⟩ := writes_residue (exec_modinv_of_invertible (rd := rd) h hgcd) hlt
  rw [← hval] at hlt hmul
  have hne : t.val rd ≠ 0 := by
    intro h0
    simp [h0] at hmul
  exact ⟨t, hexec, hwrites.self, Nat.one_le_iff_ne_zero.2 hne, hlt, hmul,
    fun v hv hav => eq_of_mul_mod_eq hgcd hv hlt (hav.trans hmul.symm)⟩

/-- Settles O21: the second check of MODINV raises, before anything is written. -/
theorem modinvNotInvertibleTraps : Obligations.ModinvNotInvertibleTraps := fun _ _ _ _ h hgcd =>
  raises_of_error (exec_modinv_of_not_invertible h hgcd)

/-! Square roots (R187 to R189). -/

theorem qrOf_eq_true_iff (r a p : Nat) : qrOf r a p = true ↔ r ^ 2 % p = a % p := by rw [qrOf, beq_iff_eq, pow_two]

/-- Settles O22: MODSQRT commits the power of R187 with the flag of R188, or its second check raises. -/
theorem modsqrtResult : Obligations.ModsqrtResult := by
  intro rd ra rm s h
  refine ⟨fun h4 => ?_, fun h4 => raises_of_error (exec_modsqrt_of_not_mod_four h h4)⟩
  have hval := val_setVal_same s rd ((sqrtMod_lt (s.val ra) h).trans (val_lt s rm))
  refine ⟨_, exec_modsqrt_of_mod_four h4, hval.trans (sqrtMod_eq ..), ?_, fun _ hr => reg_setVal_of_ne _ _ hr,
    advance_commits (readyToCommit_units ..).toSameHostSide rfl rfl, rfl, rfl⟩
  change _ ↔ (s.setVal rd _).val rd ^ 2 % s.val rm = _
  rw [hval]
  exact qrOf_eq_true_iff ..

/-- The power of R187 is a root of every square modulo a prime: the root `y` of `a` gives `(y²)^((p+1)/2) = y^p · y`,
and `y^p` is `y` by Fermat. -/
theorem sq_pow_mod_of_square {a p y : Nat} (hp : p.Prime) (h4 : p % 4 = 3) (hy : y * y % p = a % p) :
    (a ^ ((p + 1) / 4) % p) * (a ^ ((p + 1) / 4) % p) % p = a % p := by
  have : Fact p.Prime := ⟨hp⟩
  have hexp : (p + 1) / 4 * 2 * 2 = p + 1 := by omega
  have ha : (a : ZMod p) = y ^ 2 := by
    rw [pow_two, ← Nat.cast_mul, (ZMod.natCast_eq_natCast_iff' ..).2 hy]
  have hroot : ((a ^ ((p + 1) / 4) * a ^ ((p + 1) / 4) : Nat) : ZMod p) = a := by
    calc ((a ^ ((p + 1) / 4) * a ^ ((p + 1) / 4) : Nat) : ZMod p) = (y : ZMod p) ^ ((p + 1) / 4 * 2 * 2) := by
          push_cast [ha]
          ring
      _ = (y : ZMod p) ^ p * y := by rw [hexp, pow_succ]
      _ = a := by rw [ZMod.pow_card, ha, pow_two]
  rw [← Nat.mul_mod]
  exact (ZMod.natCast_eq_natCast_iff' ..).1 hroot

/-- Settles O23: the flag says that the result squared is the input, and the result is a root of every square. -/
theorem qrDecidesSquares : Obligations.QrDecidesSquares := by
  intro rd ra rm s hp h4
  obtain ⟨t, hexec, hval, hqr, -⟩ := (modsqrtResult rd ra rm s (goodModulus_of_mod_four h4)).1 h4
  have hroot : (∃ y, y * y % s.val rm = s.val ra % s.val rm) →
      t.val rd * t.val rd % s.val rm = s.val ra % s.val rm := by
    rintro ⟨y, hy⟩
    rw [hval]
    exact sq_pow_mod_of_square hp h4 hy
  rw [pow_two] at hqr
  exact ⟨t, hexec, hqr.trans ⟨fun h => ⟨_, h⟩, hroot⟩, hroot⟩

end Sys2Proof.Machine
end

section
/-! PROOFS. The statements of 42_elliptic_curve.md: the checks of the unit in their order, the curve context's commands,
the group law as congruences, and what the point commands write or raise. -/

namespace Sys2Proof.Machine

variable {w nreg ncmd : Nat}

/-! The checks (R215, R217, R218). -/

theorem checkCurve_error {s : State.Of w nreg ncmd} (h : s.curve.id = .none) : checkCurve s = .error .noCurve :=
  if_pos h

theorem checkGenerator_ok {s : State.Of w nreg ncmd} (h : s.curve.id ≠ .custom) : checkGenerator s = .ok () := if_neg h

theorem checkGenerator_error {s : State.Of w nreg ncmd} (h : s.curve.id = .custom) :
    checkGenerator s = .error .noGenerator := if_pos h

theorem checkCoefficients_ok {a b p : Nat} (ha : a < p) (hb : b < p) : checkCoefficients a b p = .ok () :=
  if_neg (by omega)

theorem checkCoefficients_error {a b p : Nat} (h : p ≤ a ∨ p ≤ b) : checkCoefficients a b p = .error .badCurve :=
  if_pos h

/-- Every element may be read of a preset, and A, B and P of every context (R218). -/
theorem checkElement_ok {s : State.Of w nreg ncmd} {sel : BitVec 3} (h : sel.toNat < 3 ∨ s.curve.id ≠ .custom) :
    checkElement s sel = .ok () := by
  unfold checkElement
  split_ifs with hsel
  · exact checkGenerator_ok (h.resolve_left (by omega))
  · rfl

theorem checkElement_error {s : State.Of w nreg ncmd} {sel : BitVec 3} (hsel : 3 ≤ sel.toNat)
    (h : s.curve.id = .custom) : checkElement s sel = .error .noGenerator :=
  (if_pos hsel).trans (checkGenerator_error h)

/-- With no curve loaded a command that checks the context right after its encoding does nothing else (R215). -/
theorem raises_noCurve {i : Instr} {s : State} {rest : Unit → Except ErrorCode State} (hwf : i.wf = true)
    (hc : s.curve.id = .none) (hexec : exec i s = finish s (checkLegal i.wf >>= fun _ => checkCurve s >>= rest)) :
    Raises .noCurve i s := by
  rw [checkLegal_ok hwf, checkCurve_error hc] at hexec
  exact raises_of_error hexec

/-- With a curve loaded such a command comes down to what follows the two checks. -/
theorem exec_of_loaded (i : Instr) {s : State} {rest : Unit → Except ErrorCode State} (hwf : i.wf = true)
    (hc : s.curve.id ≠ .none) (hexec : exec i s = finish s (checkLegal i.wf >>= fun _ => checkCurve s >>= rest)) :
    exec i s = finish s (rest ()) := by
  rw [checkLegal_ok hwf, checkCurve_ok hc] at hexec
  exact hexec

/-- Settles O27: the six commands check the context right after their encoding. -/
theorem noCurveTraps : Obligations.NoCurveTraps := by
  rintro i s hc hwf (⟨rd, sel, rfl⟩ | ⟨pd, pa, pb, rfl⟩ | ⟨pd, pa, rfl⟩ | ⟨pd, pa, rfl⟩ | ⟨pd, pa, rb, neg, rfl⟩ |
    ⟨pd, rb, neg, rfl⟩) <;>
    exact raises_noCurve hwf hc rfl

/-! CLD and CGET (R217, R218). -/

/-- Settles O25: the modulus is good, so the check of the coefficients decides. -/
theorem cldLoadsCustom : Obligations.CldLoadsCustom := by
  intro ra rb rm s hm
  have hexec : exec (.cld ra rb rm) s = finish s (checkCoefficients (s.val ra) (s.val rb) (s.val rm) >>= fun _ =>
      .ok { s with curve := { s.curve with id := .custom, ca := s.reg ra, cb := s.reg rb, cp := s.reg rm } }) := by
    rw [exec, execCld, checkModulus_ok hm]
    rfl
  refine ⟨fun ha hb => ?_, fun hbad => ?_⟩
  · rw [checkCoefficients_ok ha hb] at hexec
    exact ⟨_, hexec, rfl, rfl, rfl, rfl, advance_commits (readyToCommit_units ..).toSameHostSide rfl rfl, fun _ => rfl,
      rfl, rfl⟩
  · rw [checkCoefficients_error hbad] at hexec
    exact raises_of_error hexec

section cget

variable {rd : Reg} {sel : BitVec 3} {s : State}

theorem cget_writesReg (hc : s.curve.id ≠ .none) (hsel : selectorOk sel = true)
    (helem : sel.toNat < 3 ∨ s.curve.id ≠ .custom) :
    ∃ t, exec (.cget rd sel) s = .next t ∧ WritesReg rd (curveElement s.curve sel) s t := by
  have hexec := exec_of_loaded (.cget rd sel) hsel hc rfl
  rw [checkElement_ok helem] at hexec
  exact ⟨_, hexec, writesReg_setReg ..⟩

theorem cget_raises_noGenerator (hsel : selectorOk sel = true) (hge : 3 ≤ sel.toNat) (hc : s.curve.id = .custom) :
    Raises .noGenerator (.cget rd sel) s := by
  have hexec := exec_of_loaded (.cget rd sel) (s := s) hsel (by simp [hc]) rfl
  rw [checkElement_error hge hc] at hexec
  exact raises_of_error hexec

end cget

/-- Settles O26: a selector names its element, and the last three need a preset. -/
theorem cgetCopiesElement : Obligations.CgetCopiesElement := by
  intro rd s hc
  refine ⟨?_, ?_, ?_, fun hpreset => ⟨?_, ?_, ?_⟩, fun hcustom => ⟨?_, ?_, ?_⟩⟩
  · exact cget_writesReg (sel := 0) hc rfl (.inl (by decide))
  · exact cget_writesReg (sel := 1) hc rfl (.inl (by decide))
  · exact cget_writesReg (sel := 2) hc rfl (.inl (by decide))
  · exact cget_writesReg (sel := 3) hc rfl (.inr hpreset)
  · exact cget_writesReg (sel := 4) hc rfl (.inr hpreset)
  · exact cget_writesReg (sel := 5) hc rfl (.inr hpreset)
  · exact cget_raises_noGenerator rfl (by decide) hcustom
  · exact cget_raises_noGenerator rfl (by decide) hcustom
  · exact cget_raises_noGenerator rfl (by decide) hcustom

/-! The point commands in a loaded context (R221 to R227). -/

/-- The command comes down to the computation `x` of a point, which it writes to the pair at `pd`. -/
def ComputesPoint (i : Instr) (pd : Reg) (x : Except ErrorCode Point) (s : State) : Prop :=
  exec i s = finish s (x >>= fun r => .ok (writePoint s pd r))

theorem ComputesPoint.writes {i : Instr} {pd : Reg} {x : Except ErrorCode Point} {s : State} {r : Point}
    (h : ComputesPoint i pd x s) (hx : x = .ok r) (hr : Reduced s.prime r) :
    ∃ t, exec i s = .next t ∧ WritesPoint pd r s t := by
  subst hx
  exact ⟨_, h, writesPoint_writePoint (by decide) hr⟩

theorem ComputesPoint.raises {i : Instr} {pd : Reg} {x : Except ErrorCode Point} {s : State} {e : ErrorCode}
    (h : ComputesPoint i pd x s) (hx : x = .error e) : Raises e i s := by
  subst hx
  exact raises_of_error h

section loaded

variable {pd pa pb : Reg} {s : State} {p q : Point}

theorem ecadd_computes (heven : (evenReg pd && evenReg pa && evenReg pb) = true) (hc : s.curve.id ≠ .none)
    (hp : ReadsPoint s pa p) (hq : ReadsPoint s pb q) :
    ComputesPoint (.ecadd pd pa pb) pd (ecAdd s.prime s.coeffA p q) s := by
  have hexec := exec_of_loaded (.ecadd pd pa pb) heven hc rfl
  rw [readPoint_ok hp, readPoint_ok hq] at hexec
  exact hexec

theorem ecdbl_computes (heven : (evenReg pd && evenReg pa) = true) (hc : s.curve.id ≠ .none) (hp : ReadsPoint s pa p) :
    ComputesPoint (.ecdbl pd pa) pd (ecAdd s.prime s.coeffA p p) s := by
  have hexec := exec_of_loaded (.ecdbl pd pa) heven hc rfl
  rw [readPoint_ok hp] at hexec
  exact hexec

theorem ecmul_computes {rb : Reg} {neg : Bool} (heven : (evenReg pd && evenReg pa) = true) (hc : s.curve.id ≠ .none)
    (hp : ReadsPoint s pa p) :
    ComputesPoint (.ecmul pd pa rb neg) pd (ecMul s.prime s.coeffA p (s.val rb) neg) s := by
  have hexec := exec_of_loaded (.ecmul pd pa rb neg) heven hc rfl
  rw [readPoint_ok hp] at hexec
  exact hexec

/-- ECMULG checks for a generator where the others read a point (R227). -/
theorem exec_ecmulg {rb : Reg} {neg : Bool} (heven : evenReg pd = true) (hc : s.curve.id ≠ .none) :
    exec (.ecmulg pd rb neg) s = finish s (checkGenerator s >>= fun _ =>
      ecMul s.prime s.coeffA s.generator (s.val rb) neg >>= fun r => .ok (writePoint s pd r)) :=
  exec_of_loaded (.ecmulg pd rb neg) heven hc rfl

/-- A command whose first operand is no point does nothing but read it (R214). -/
theorem raises_badPoint {i : Instr} {rest : Point → Except ErrorCode State} (hbad : BadPair s pa)
    (hexec : exec i s = finish s (readPoint s pa >>= rest)) : Raises .badPoint i s := by
  rw [readPoint_error hbad] at hexec
  exact raises_of_error hexec

end loaded

/-- Settles O28: each command reads `pa` right after the check of the context, and ECADD then `pb`. -/
theorem badPointTraps : Obligations.BadPointTraps := by
  intro pd pa pb s hc hpd hpa
  have heven : (evenReg pd && evenReg pa) = true := by simp [hpd, hpa]
  have hadd (hpb : evenReg pb = true) := exec_of_loaded (.ecadd pd pa pb) (by simp [Instr.wf, heven, hpb]) hc rfl
  refine ⟨fun hbad => ⟨?_, ?_, fun rb neg => ?_, fun hpb => ?_⟩, fun p hp hpb hbad => ?_⟩
  · exact raises_badPoint hbad (exec_of_loaded (.ecdbl pd pa) heven hc rfl)
  · exact raises_badPoint hbad (exec_of_loaded (.ecneg pd pa) heven hc rfl)
  · exact raises_badPoint hbad (exec_of_loaded (.ecmul pd pa rb neg) heven hc rfl)
  · exact raises_badPoint hbad (hadd hpb)
  · have hexec := hadd hpb
    rw [readPoint_ok hp] at hexec
    exact raises_badPoint hbad hexec

/-- Settles O33: ECNEG commits `ecneg` of its operand, whose ordinate is below P. -/
theorem ecnegResult : Obligations.EcnegResult := by
  intro pd pa s hpd hpa hc
  have hwrites {p : Point} (hp : ReadsPoint s pa p) :
      ∃ t, exec (.ecneg pd pa) s = .next t ∧ WritesPoint pd (ecNeg s.prime p) s t :=
    execEcneg_writesPoint (by decide) (by simp [hpd, hpa]) hc hp
  refine ⟨hwrites, fun x y hp => ?_⟩
  rw [← imod_sub_nat hp.2.2]
  exact hwrites hp

/-- Settles O32: checking `pa` for evenness and reading it a second time adds nothing. -/
theorem ecdblIsEcaddSelf : Obligations.EcdblIsEcaddSelf := by
  intro pd pa s
  refine ⟨?_, fun hpd hpa hc hp => (ecdbl_computes (by simp [hpd, hpa]) hc hp).writes rfl trivial⟩
  show execEcdbl pd pa s = execEcadd pd pa pa s
  rw [execEcdbl, execEcadd, Bool.and_assoc, Bool.and_self]
  cases readPoint s pa <;> rfl

/-! ECMUL and ECMULG (R224 to R227). -/

/-- A command that computes a multiple of a point below P commits it, where it exists; the multiples by 0 and 1 do. -/
theorem ComputesPoint.multiple {i : Instr} {pd : Reg} {s : State} {p : Point} {k : Nat} {neg : Bool}
    (h : ComputesPoint i pd (ecMul s.prime s.coeffA p k neg) s) (hp : Reduced s.prime p) :
    (∀ r, ecMul s.prime s.coeffA p k neg = .ok r → ∃ t, exec i s = .next t ∧ WritesPoint pd r s t) ∧
    (k = 0 → ∃ t, exec i s = .next t ∧ WritesPoint pd .inf s t) ∧
    (k = 1 → ∃ t, exec i s = .next t ∧ WritesPoint pd (if neg then ecNeg s.prime p else p) s t) := by
  have hwrites {r : Point} (hr : ecMul s.prime s.coeffA p k neg = .ok r) := h.writes hr (ecMul_reduced hp hr)
  refine ⟨fun r hr => hwrites hr, ?_, ?_⟩
  · rintro rfl
    exact hwrites ecMul_zero
  · rintro rfl
    exact hwrites ecMul_one

/-- Settles O34: what ECMUL commits or raises is what `ecmul` gives or raises. -/
theorem ecmulResult : Obligations.EcmulResult := by
  intro pd pa rb neg s p hpd hpa hc hp
  have hcomp := ecmul_computes (pd := pd) (rb := rb) (neg := neg) (by simp [hpd, hpa]) hc hp
  obtain ⟨hwrites, hzero, hone⟩ := hcomp.multiple hp.2
  refine ⟨hwrites, fun e he => ?_, ?_, hone⟩
  · obtain rfl := eq_notInvertible_of_ecMul he
    exact ⟨rfl, hcomp.raises he⟩
  · rintro (hk | rfl)
    · exact hzero hk
    · exact hwrites _ ecMul_inf

/-- The generator of a preset context lies below its prime (R212). -/
theorem generator_reduced {s : State} (hok : ContextOk s.curve) (hnone : s.curve.id ≠ .none)
    (hcustom : s.curve.id ≠ .custom) : Reduced s.prime s.generator := by
  unfold ContextOk at hok
  unfold State.Of.prime State.Of.generator
  cases hid : s.curve.id with
  | none => exact absurd hid hnone
  | custom => exact absurd hid hcustom
  | secp256r1 =>
    rw [hid] at hok
    rw [hok]
    constructor <;> decide +kernel
  | brainpoolP512r1 =>
    rw [hid] at hok
    rw [hok]
    constructor <;> decide +kernel

/-- Settles O35: on a preset ECMULG is the multiple of a point below P, else its check raises. -/
theorem ecmulgResult : Obligations.EcmulgResult := by
  intro pd rb neg s hpd hok hnone
  have hexec := exec_ecmulg (rb := rb) (neg := neg) hpd hnone
  refine ⟨fun hcustom => ?_, fun hcustom => ?_⟩
  · rw [checkGenerator_ok hcustom] at hexec
    have hcomp : ComputesPoint (.ecmulg pd rb neg) pd (ecMul s.prime s.coeffA s.generator (s.val rb) neg) s := hexec
    exact hcomp.multiple (generator_reduced hok hnone hcustom)
  · rw [checkGenerator_error hcustom] at hexec
    exact raises_of_error hexec

/-! Double-and-add (R224, R225). -/

/-- One pass of R224's loop: the accumulator doubled and, for a scalar bit 1, the point added. -/
def doubleAndAdd (p a : Nat) (p₁ : Point) (b : Bool) (r : Point) : Except ErrorCode Point :=
  ecAdd p a r r >>= ecAddBit p a p₁ b

theorem ecMulLoop_succ (p a : Nat) (p₁ : Point) (k i : Nat) (r : Point) :
    ecMulLoop p a p₁ k (i + 1) r = doubleAndAdd p a p₁ (k.testBit i) r >>= ecMulLoop p a p₁ k i :=
  (bind_assoc ..).symm

theorem double_add_div_two (j : Nat) (b : Bool) : (2 * j + b.toNat) / 2 = j := by
  have hb := Bool.toNat_lt b
  omega

theorem testBit_double_add_zero (j : Nat) (b : Bool) : (2 * j + b.toNat).testBit 0 = b := by
  cases b <;> simp [Nat.testBit_zero]

theorem testBit_double_add_succ (j : Nat) (b : Bool) (i : Nat) :
    (2 * j + b.toNat).testBit (i + 1) = j.testBit i := by
  rw [Nat.testBit_succ, double_add_div_two]

theorem bitlen_double_add {j : Nat} {b : Bool} (h : 2 * j + b.toNat ≠ 0) :
    bitlen (2 * j + b.toNat) = bitlen j + 1 := by
  have hb := Bool.toNat_lt b
  rw [bitlen, if_neg h, Nat.log2_def, double_add_div_two, bitlen]
  split_ifs <;> omega

/-- The lowest scalar bit is the loop's last pass. -/
theorem ecMulLoop_double_add (p a : Nat) (p₁ : Point) (j : Nat) (b : Bool) (n : Nat) (r : Point) :
    ecMulLoop p a p₁ (2 * j + b.toNat) (n + 1) r = ecMulLoop p a p₁ j n r >>= doubleAndAdd p a p₁ b := by
  induction n generalizing r with
  | zero =>
    rw [ecMulLoop_succ, testBit_double_add_zero]
    exact bind_pure _
  | succ n ih =>
    rw [ecMulLoop_succ, ecMulLoop_succ, testBit_double_add_succ, bind_assoc]
    exact congrArg _ (funext ih)

theorem ecMul_false (p a : Nat) (p₁ : Point) (k : Nat) :
    ecMul p a p₁ k false = ecMulLoop p a p₁ k (bitlen k) .inf := bind_pure _

/-- Settles O36: the loop's last pass takes the lowest bit, and the loop for the rest comes before it. -/
theorem ecmulIsDoubleAndAdd : Obligations.EcmulIsDoubleAndAdd := by
  intro p a p₁ j b
  refine ⟨ecMul_zero, ?_, ?_⟩
  · show _ = ecMul p a p₁ j false >>= doubleAndAdd p a p₁ b
    rw [ecMul_false, ecMul_false]
    by_cases hzero : 2 * j + b.toNat = 0
    · obtain ⟨rfl, rfl⟩ : j = 0 ∧ b = false := by cases b <;> simp_all
      rfl
    · rw [bitlen_double_add hzero, ecMulLoop_double_add]
  · rw [ecMul_false]
    rfl

/-! The line through two points (R219): addition as congruences. -/

/-- The point (x₃, y₃) is the third point of the line of slope `l` through (x₁, y₁) with the other abscissa x₂,
reflected, and its coordinates are residues. -/
structure OnLine (p : Nat) (l : Int) (x₁ y₁ x₂ x₃ y₃ : Nat) : Prop where
  x_lt : x₃ < p
  y_lt : y₃ < p
  x_modEq : (x₃ : Int) ≡ l * l - x₁ - x₂ [ZMOD p]
  y_modEq : (y₃ : Int) ≡ l * (x₁ - x₃) - y₁ [ZMOD p]

theorem thirdPoint_onLine {p : Nat} (hp : 0 < p) (l x₁ y₁ x₂ : Nat) :
    ∃ x₃ y₃, thirdPoint p l x₁ y₁ x₂ = .affine x₃ y₃ ∧ OnLine p l x₁ y₁ x₂ x₃ y₃ :=
  ⟨_, _, rfl, imod_lt _ hp, imod_lt _ hp, imod_modEq _ hp, imod_modEq _ hp⟩

/-- The sum on the line of slope `num / den`, tangent or chord. -/
def lineSum (p num den x₁ y₁ x₂ : Nat) : Except ErrorCode Point :=
  ecSlope p num den >>= fun l => .ok (thirdPoint p l x₁ y₁ x₂)

theorem lineSum_ok {p num den : Nat} (hp : 1 < p) (hgcd : Nat.gcd (den % p) p = 1) (x₁ y₁ x₂ : Nat) :
    ∃ x₃ y₃, ∃ l : Int, lineSum p num den x₁ y₁ x₂ = .ok (.affine x₃ y₃) ∧ l * den ≡ num [ZMOD p] ∧
      OnLine p l x₁ y₁ x₂ x₃ y₃ := by
  obtain ⟨x₃, y₃, hthird, hline⟩ := thirdPoint_onLine (Nat.zero_lt_of_lt hp) (num * invMod den p % p) x₁ y₁ x₂
  refine ⟨x₃, y₃, _, ?_, slope_mul_den hp hgcd, hline⟩
  rw [lineSum, ecSlope_ok hgcd, ← hthird]
  rfl

theorem lineSum_error {p num den : Nat} (hgcd : Nat.gcd (den % p) p ≠ 1) (x₁ y₁ x₂ : Nat) :
    lineSum p num den x₁ y₁ x₂ = .error .notInvertible := by
  rw [lineSum, ecSlope_error hgcd]
  rfl

theorem ecAdd_inf_left (p a : Nat) (q : Point) : ecAdd p a .inf q = .ok q := rfl

theorem ecAdd_inf_right (p a : Nat) (q : Point) : ecAdd p a q .inf = .ok q := by cases q <;> rfl

section affine

variable {p a x x₁ x₂ y y₁ y₂ : Nat}

/-- Case (b) of R219. -/
theorem ecAdd_opposite (h₁ : y₁ < p) (h₂ : y₂ < p) (hsum : (y₁ + y₂) % p = 0) :
    ecAdd p a (.affine x y₁) (.affine x y₂) = .ok .inf := if_pos ⟨rfl, (eq_imod_sub_iff h₁ h₂).2 hsum⟩

/-- Case (c) of R219 for one point: the tangent. -/
theorem ecAdd_self (hy : y < p) (hne : 2 * y % p ≠ 0) :
    ecAdd p a (.affine x y) (.affine x y) = lineSum p ((3 * x * x + a) % p) (2 * y % p) x y x := by
  rw [two_mul] at hne
  rw [ecAdd, if_neg fun h => hne ((eq_imod_sub_iff hy hy).1 h.2), if_pos ⟨rfl, rfl⟩]
  rfl

/-- Case (c) of R219 for two points that are neither equal nor opposite: the chord. -/
theorem ecAdd_of_ne (h₁ : y₁ < p) (h₂ : y₂ < p) (hne : x₁ = x₂ → y₁ ≠ y₂ ∧ (y₁ + y₂) % p ≠ 0) :
    ecAdd p a (.affine x₁ y₁) (.affine x₂ y₂) =
      lineSum p (imod ((y₂ : Int) - y₁) p) (imod ((x₂ : Int) - x₁) p) x₁ y₁ x₂ := by
  rw [ecAdd, if_neg fun h => (hne h.1).2 ((eq_imod_sub_iff h₁ h₂).1 h.2), if_neg fun h => (hne h.1).1 h.2]
  rfl

theorem tangent_ok (hy : y < p) (hne : 2 * y % p ≠ 0) (hgcd : Nat.gcd (2 * y) p = 1) :
    ∃ x₃ y₃, ∃ l : Int, ecAdd p a (.affine x y) (.affine x y) = .ok (.affine x₃ y₃) ∧
      l * (2 * y) ≡ 3 * x * x + a [ZMOD p] ∧ OnLine p l x y x x₃ y₃ := by
  have hp : 1 < p := by
    by_contra
    obtain rfl : p = 1 := by omega
    exact hne (Nat.mod_one _)
  obtain ⟨x₃, y₃, l, hsum, hslope, hline⟩ :=
    lineSum_ok (num := (3 * x * x + a) % p) (den := 2 * y % p) hp (by simpa using hgcd) x y x
  refine ⟨x₃, y₃, l, (ecAdd_self hy hne).trans hsum, ?_, hline⟩
  push_cast at hslope
  exact ((Int.mod_modEq ..).mul_left l).symm.trans (hslope.trans (Int.mod_modEq ..))

theorem tangent_error (hy : y < p) (hne : 2 * y % p ≠ 0) (hgcd : Nat.gcd (2 * y) p ≠ 1) :
    ecAdd p a (.affine x y) (.affine x y) = .error .notInvertible :=
  (ecAdd_self hy hne).trans (lineSum_error (by simpa using hgcd) ..)

theorem chord_ok (hx₁ : x₁ < p) (hx₂ : x₂ < p) (h₁ : y₁ < p) (h₂ : y₂ < p) (hne : x₁ ≠ x₂)
    (hgcd : Int.gcd ((x₂ : Int) - x₁) p = 1) :
    ∃ x₃ y₃, ∃ l : Int, ecAdd p a (.affine x₁ y₁) (.affine x₂ y₂) = .ok (.affine x₃ y₃) ∧
      l * ((x₂ : Int) - x₁) ≡ y₂ - y₁ [ZMOD p] ∧ OnLine p l x₁ y₁ x₂ x₃ y₃ := by
  have hpos : 0 < p := by omega
  obtain ⟨x₃, y₃, l, hsum, hslope, hline⟩ :=
    lineSum_ok (num := imod ((y₂ : Int) - y₁) p) (by omega) ((gcd_imod _ hpos).trans hgcd) x₁ y₁ x₂
  refine ⟨x₃, y₃, l, (ecAdd_of_ne h₁ h₂ fun h => absurd h hne).trans hsum, ?_, hline⟩
  exact ((imod_modEq _ hpos).mul_left l).symm.trans (hslope.trans (imod_modEq _ hpos))

theorem chord_error (h₁ : y₁ < p) (h₂ : y₂ < p) (hne : x₁ = x₂ → y₁ ≠ y₂ ∧ (y₁ + y₂) % p ≠ 0)
    (hgcd : Int.gcd ((x₂ : Int) - x₁) p ≠ 1) :
    ecAdd p a (.affine x₁ y₁) (.affine x₂ y₂) = .error .notInvertible :=
  (ecAdd_of_ne h₁ h₂ hne).trans (lineSum_error (by rwa [gcd_imod _ (by omega)]) ..)

/-- Of two points with one abscissa that are neither equal nor opposite there is no sum. -/
theorem ecAdd_same_abscissa_error (h₁ : y₁ < p) (h₂ : y₂ < p) (hne : y₁ ≠ y₂) (hsum : (y₁ + y₂) % p ≠ 0) :
    ecAdd p a (.affine x y₁) (.affine x y₂) = .error .notInvertible :=
  chord_error h₁ h₂ (fun _ => ⟨hne, hsum⟩) (by simp; omega)

end affine

/-! ECADD and ECDBL of points (R219, R221, R222). -/

/-- Settles O29: an identity operand is case (a) of R219, opposite points are case (b), and one abscissa with other
ordinates has no chord. -/
theorem ecaddIdentityAndInverse : Obligations.EcaddIdentityAndInverse := by
  intro pd pa pb s p q hpd hpa hpb hc hp hq
  have hcomp := ecadd_computes (pd := pd) (by simp [hpd, hpa, hpb]) hc hp hq
  obtain ⟨-, hredp⟩ := hp
  obtain ⟨-, hredq⟩ := hq
  refine ⟨?_, ?_, ?_, ?_⟩
  · rintro rfl
    exact hcomp.writes (ecAdd_inf_left ..) hredq
  · rintro rfl
    exact hcomp.writes (ecAdd_inf_right ..) hredp
  · rintro x y₁ y₂ rfl rfl hsum
    exact hcomp.writes (ecAdd_opposite hredp.2 hredq.2 hsum) trivial
  · rintro x y₁ y₂ rfl rfl hne hsum
    exact hcomp.raises (ecAdd_same_abscissa_error hredp.2 hredq.2 hne hsum)

/-- Settles O30: the chord where its denominator has an inverse. -/
theorem ecaddChord : Obligations.EcaddChord := by
  intro pd pa pb s x₁ y₁ x₂ y₂ hpd hpa hpb hc hp hq hne
  have hcomp := ecadd_computes (pd := pd) (by simp [hpd, hpa, hpb]) hc hp hq
  obtain ⟨-, hx₁, hy₁⟩ := hp
  obtain ⟨-, hx₂, hy₂⟩ := hq
  refine ⟨fun hgcd => ?_, fun hgcd => hcomp.raises (chord_error hy₁ hy₂ (fun h => absurd h hne) hgcd)⟩
  obtain ⟨x₃, y₃, l, hsum, hslope, hline⟩ := chord_ok (a := s.coeffA) hx₁ hx₂ hy₁ hy₂ hne hgcd
  obtain ⟨t, hexec, hwrites⟩ := hcomp.writes hsum ⟨hline.x_lt, hline.y_lt⟩
  exact ⟨t, x₃, y₃, l, hexec, hwrites, hslope, hline.x_lt, hline.y_lt, hline.x_modEq, hline.y_modEq⟩

/-- Settles O31: both commands compute the sum of the point with itself, which is its own opposite or has a tangent. -/
theorem doublingTangent : Obligations.DoublingTangent := by
  intro pd pa pb s x y hpd hpa hpb hc hp hq i hi
  have hcomp : ComputesPoint i pd (ecAdd s.prime s.coeffA (.affine x y) (.affine x y)) s := by
    rcases List.mem_pair.1 hi with rfl | rfl
    · exact ecdbl_computes (by simp [hpd, hpa]) hc hp
    · exact ecadd_computes (by simp [hpd, hpa, hpb]) hc hp hq
  obtain ⟨-, -, hy⟩ := hp
  refine ⟨fun hzero => ?_, fun hne hgcd => ?_, fun hne hgcd => hcomp.raises (tangent_error hy hne hgcd)⟩
  · rw [two_mul] at hzero
    exact hcomp.writes (ecAdd_opposite hy hy hzero) trivial
  · obtain ⟨x₃, y₃, l, hsum, hslope, hline⟩ := tangent_ok (a := s.coeffA) (x := x) hy hne hgcd
    obtain ⟨t, hexec, hwrites⟩ := hcomp.writes hsum ⟨hline.x_lt, hline.y_lt⟩
    exact ⟨t, x₃, y₃, l, hexec, hwrites, hslope, hline.x_lt, hline.y_lt, hline.x_modEq, hline.y_modEq⟩

/-! The laws of R229 that hold for every modulus. -/

/-- An invertible denominator leaves one slope modulo p. -/
theorem slope_unique {p : Nat} {l l' num den : Int} (hp : 0 < p) (hgcd : Int.gcd den p = 1)
    (h : l * den ≡ num [ZMOD p]) (h' : l' * den ≡ num [ZMOD p]) : l ≡ l' [ZMOD p] := by
  have hcancel := Int.ModEq.cancel_right_div_gcd (by exact_mod_cast hp) (h.trans h'.symm)
  rwa [Int.gcd_comm, hgcd, Nat.cast_one, Int.ediv_one] at hcancel

section line

variable {p x₁ x₂ y₁ y₂ x₃ y₃ x₃' y₃' : Nat} {l l' : Int}

/-- A line through two points may be taken from either. -/
theorem OnLine.symm (h : OnLine p l x₁ y₁ x₂ x₃ y₃) (hslope : l * ((x₂ : Int) - x₁) ≡ y₂ - y₁ [ZMOD p]) :
    OnLine p l x₂ y₂ x₁ x₃ y₃ where
  x_lt := h.x_lt
  y_lt := h.y_lt
  x_modEq := by
    rw [sub_right_comm]
    exact h.x_modEq
  y_modEq :=
    calc (y₃ : Int) ≡ l * (x₁ - x₃) - y₁ [ZMOD p] := h.y_modEq
      _ = l * (x₂ - x₃) - y₁ - l * (x₂ - x₁) := by ring
      _ ≡ l * (x₂ - x₃) - y₁ - (y₂ - y₁) [ZMOD p] := hslope.sub_left _
      _ = l * (x₂ - x₃) - y₂ := by ring

/-- The residue of the slope determines the third point. -/
theorem OnLine.unique (h : OnLine p l x₁ y₁ x₂ x₃ y₃) (h' : OnLine p l' x₁ y₁ x₂ x₃' y₃') (hl : l ≡ l' [ZMOD p]) :
    x₃ = x₃' ∧ y₃ = y₃' := by
  have hx : (x₃ : Int) ≡ x₃' [ZMOD p] :=
    h.x_modEq.trans ((((hl.mul hl).sub_right _).sub_right _).trans h'.x_modEq.symm)
  have hy : (y₃ : Int) ≡ y₃' [ZMOD p] :=
    h.y_modEq.trans (((hl.mul (hx.sub_left _)).sub_right _).trans h'.y_modEq.symm)
  exact ⟨(Int.natCast_modEq_iff.1 hx).eq_of_lt_of_lt h.x_lt h'.x_lt,
    (Int.natCast_modEq_iff.1 hy).eq_of_lt_of_lt h.y_lt h'.y_lt⟩

/-- The chord of two points is the chord of the same points in the other order. -/
theorem chord_comm (a : Nat) (hx₁ : x₁ < p) (hx₂ : x₂ < p) (h₁ : y₁ < p) (h₂ : y₂ < p) (hne : x₁ ≠ x₂) :
    ecAdd p a (.affine x₁ y₁) (.affine x₂ y₂) = ecAdd p a (.affine x₂ y₂) (.affine x₁ y₁) := by
  have hswap : Int.gcd ((x₁ : Int) - x₂) p = Int.gcd ((x₂ : Int) - x₁) p := by rw [← neg_sub, Int.neg_gcd]
  by_cases hgcd : Int.gcd ((x₂ : Int) - x₁) p = 1
  · obtain ⟨x₃, y₃, l, hsum, hslope, hline⟩ := chord_ok (a := a) hx₁ hx₂ h₁ h₂ hne hgcd
    obtain ⟨x₃', y₃', l', hsum', hslope', hline'⟩ := chord_ok (a := a) hx₂ hx₁ h₂ h₁ hne.symm (hswap.trans hgcd)
    have hneg : l * ((x₁ : Int) - x₂) ≡ y₁ - y₂ [ZMOD p] := by
      rw [← neg_sub, mul_neg, ← neg_sub (y₂ : Int)]
      exact hslope.neg
    obtain ⟨rfl, rfl⟩ := (hline.symm hslope).unique hline' (slope_unique (by omega) (hswap.trans hgcd) hneg hslope')
    rw [hsum, hsum']
  · rw [chord_error h₁ h₂ (fun h => absurd h hne) hgcd,
      chord_error h₂ h₁ (fun h => absurd h.symm hne) (hswap ▸ hgcd)]

end line

theorem ecAdd_comm {p a : Nat} {p₁ p₂ : Point} (h₁ : Reduced p p₁) (h₂ : Reduced p p₂) :
    ecAdd p a p₁ p₂ = ecAdd p a p₂ p₁ := by
  cases p₁ with
  | inf => rw [ecAdd_inf_left, ecAdd_inf_right]
  | affine x₁ y₁ =>
    cases p₂ with
    | inf => rw [ecAdd_inf_left, ecAdd_inf_right]
    | affine x₂ y₂ =>
      obtain ⟨hx₁, hy₁⟩ := h₁
      obtain ⟨hx₂, hy₂⟩ := h₂
      by_cases hx : x₁ = x₂
      · subst hx
        have hcomm := add_comm y₁ y₂
        by_cases hsum : (y₁ + y₂) % p = 0
        · rw [ecAdd_opposite hy₁ hy₂ hsum, ecAdd_opposite hy₂ hy₁ (hcomm ▸ hsum)]
        · by_cases hy : y₁ = y₂
          · rw [hy]
          · rw [ecAdd_same_abscissa_error hy₁ hy₂ hy hsum,
              ecAdd_same_abscissa_error hy₂ hy₁ (Ne.symm hy) (hcomm ▸ hsum)]
      · exact chord_comm a hx₁ hx₂ hy₁ hy₂ hx

theorem ecAdd_ecNeg {p a : Nat} {p₁ : Point} (h : Reduced p p₁) : ecAdd p a p₁ (ecNeg p p₁) = .ok .inf := by
  cases p₁ with
  | inf => rfl
  | affine x y =>
    obtain ⟨-, hy⟩ := h
    have hlt := imod_lt ((p : Int) - y) (Nat.zero_lt_of_lt hy)
    refine ecAdd_opposite hy hlt ?_
    rw [add_comm]
    exact (eq_imod_sub_iff hlt hy).1 rfl

/-- Settles O37: the cases of R219 are symmetric, and so is the line through two points. -/
theorem ecaddCommutesAndInverts : Obligations.EcaddCommutesAndInverts := fun _ _ _ _ h₁ h₂ =>
  ⟨ecAdd_comm h₁ h₂, ecAdd_ecNeg h₁⟩

/-! The group of a curve over an odd prime (R219, R229). -/

/-- A reduced point of the curve. -/
def IsPoint (p a b : Nat) (r : Point) : Prop := Reduced p r ∧ OnCurve p a b r

section curve

variable {p a b x y x₁ x₂ y₁ y₂ x₃ y₃ : Nat} {l : Int}

theorem onCurve_iff : OnCurve p a b (.affine x y) ↔ (y * y : ZMod p) = x * x * x + a * x + b := by
  rw [OnCurve, ← ZMod.natCast_eq_natCast_iff']
  push_cast
  rfl

/-- The third point of a line that meets the curve in (x₁, y₁) and again at the abscissa x₂: the cubic that the line
leaves of the curve's equation has the roots x₁ and x₂, and the square of the slope is the sum of its three roots.
For the tangent x₂ is x₁, and `hsecant` is the equation of its slope. -/
theorem OnLine.onCurve (h : OnLine p l x₁ y₁ x₂ x₃ y₃) (h₁ : OnCurve p a b (.affine x₁ y₁))
    (hslope : (l : ZMod p) * (x₂ - x₁) = y₂ - y₁)
    (hsecant : (l : ZMod p) * (y₁ + y₂) = x₁ * x₁ + x₁ * x₂ + x₂ * x₂ + a) : OnCurve p a b (.affine x₃ y₃) := by
  have hx : (x₃ : ZMod p) = l * l - x₁ - x₂ := by exact_mod_cast (ZMod.intCast_eq_intCast_iff ..).2 h.x_modEq
  have hy : (y₃ : ZMod p) = l * (x₁ - x₃) - y₁ := by exact_mod_cast (ZMod.intCast_eq_intCast_iff ..).2 h.y_modEq
  rw [onCurve_iff] at h₁ ⊢
  linear_combination (y₃ + l * (x₁ - x₃) - y₁) * hy + h₁ + (x₃ - x₁) * hsecant + (x₃ - x₁) * l * hslope -
    (x₃ - x₁) * (x₃ - x₂) * hx

theorem tangent_onCurve (h : OnLine p l x y x x₃ y₃) (hcurve : OnCurve p a b (.affine x y))
    (hslope : l * (2 * y) ≡ 3 * x * x + a [ZMOD p]) : OnCurve p a b (.affine x₃ y₃) := by
  have hslope : (l : ZMod p) * (2 * y) = 3 * x * x + a := by
    exact_mod_cast (ZMod.intCast_eq_intCast_iff ..).2 hslope
  refine h.onCurve (y₂ := y) hcurve (by ring) ?_
  linear_combination hslope

/-- Of the two curve equations' difference the abscissas' difference may be cancelled. -/
theorem chord_onCurve (h : OnLine p l x₁ y₁ x₂ x₃ y₃) (h₁ : OnCurve p a b (.affine x₁ y₁))
    (h₂ : OnCurve p a b (.affine x₂ y₂)) (hgcd : Int.gcd ((x₂ : Int) - x₁) p = 1)
    (hslope : l * ((x₂ : Int) - x₁) ≡ y₂ - y₁ [ZMOD p]) : OnCurve p a b (.affine x₃ y₃) := by
  have hslope : (l : ZMod p) * (x₂ - x₁) = y₂ - y₁ := by exact_mod_cast (ZMod.intCast_eq_intCast_iff ..).2 hslope
  have hunit : IsUnit ((x₂ : ZMod p) - x₁) := by
    have := (ZMod.coe_int_isUnit_iff_isCoprime ((x₂ : Int) - x₁) p).2 (Int.isCoprime_iff_gcd_eq_one.2 hgcd).symm
    exact_mod_cast this
  refine h.onCurve h₁ hslope (hunit.mul_left_cancel ?_)
  rw [onCurve_iff] at h₁ h₂
  linear_combination (y₁ + y₂) * hslope + h₂ - h₁

/-- Over a prime two points of the curve with one abscissa are equal or opposite (R219). -/
theorem eq_or_opposite_of_onCurve (hp : p.Prime) (hy₁ : y₁ < p) (hy₂ : y₂ < p) (h₁ : OnCurve p a b (.affine x y₁))
    (h₂ : OnCurve p a b (.affine x y₂)) : y₁ = y₂ ∨ (y₁ + y₂) % p = 0 := by
  have : Fact p.Prime := ⟨hp⟩
  rw [onCurve_iff] at h₁ h₂
  rcases mul_self_eq_mul_self_iff.1 (h₁.trans h₂.symm) with heq | hneg
  · exact .inl (Nat.ModEq.eq_of_lt_of_lt ((ZMod.natCast_eq_natCast_iff ..).1 heq) hy₁ hy₂)
  · refine .inr (Nat.mod_eq_zero_of_dvd ((ZMod.natCast_eq_zero_iff ..).1 ?_))
    rw [Nat.cast_add, hneg, neg_add_cancel]

theorem gcd_eq_one_of_mod_ne_zero (hp : p.Prime) {n : Nat} (h : n % p ≠ 0) : Nat.gcd n p = 1 :=
  Nat.Coprime.symm ((hp.coprime_iff_not_dvd).2 fun hdvd => h (Nat.mod_eq_zero_of_dvd hdvd))

theorem gcd_sub_eq_one (hp : p.Prime) (hx₁ : x₁ < p) (hx₂ : x₂ < p) (hne : x₁ ≠ x₂) :
    Int.gcd ((x₂ : Int) - x₁) p = 1 := by
  rw [← Int.isCoprime_iff_gcd_eq_one]
  refine ((Nat.prime_iff_prime_int.1 hp).coprime_iff_not_dvd.2 fun hdvd => hne ?_).symm
  exact Nat.ModEq.eq_of_lt_of_lt (Int.natCast_modEq_iff.1 (Int.modEq_iff_dvd.2 hdvd)) hx₁ hx₂

end curve

section group

variable {p a b : Nat} {p₁ p₂ r : Point}

theorem isPoint_inf : IsPoint p a b .inf := ⟨trivial, trivial⟩

/-- Addition of points of the curve never traps and stays on the curve. -/
theorem ecAdd_isPoint (hp : p.Prime) (h₁ : IsPoint p a b p₁) (h₂ : IsPoint p a b p₂) :
    ∃ r, ecAdd p a p₁ p₂ = .ok r ∧ IsPoint p a b r := by
  cases p₁ with
  | inf => exact ⟨p₂, ecAdd_inf_left .., h₂⟩
  | affine x₁ y₁ =>
    cases p₂ with
    | inf => exact ⟨_, ecAdd_inf_right .., h₁⟩
    | affine x₂ y₂ =>
      obtain ⟨⟨hx₁, hy₁⟩, hcurve₁⟩ := h₁
      obtain ⟨⟨hx₂, hy₂⟩, hcurve₂⟩ := h₂
      by_cases hx : x₁ = x₂
      · subst hx
        by_cases hsum : (y₁ + y₂) % p = 0
        · exact ⟨_, ecAdd_opposite hy₁ hy₂ hsum, isPoint_inf⟩
        · obtain rfl := (eq_or_opposite_of_onCurve hp hy₁ hy₂ hcurve₁ hcurve₂).resolve_right hsum
          rw [← two_mul] at hsum
          obtain ⟨x₃, y₃, l, hadd, hslope, hline⟩ := tangent_ok hy₁ hsum (gcd_eq_one_of_mod_ne_zero hp hsum)
          exact ⟨_, hadd, ⟨hline.x_lt, hline.y_lt⟩, tangent_onCurve hline hcurve₁ hslope⟩
      · have hgcd := gcd_sub_eq_one hp hx₁ hx₂ hx
        obtain ⟨x₃, y₃, l, hadd, hslope, hline⟩ := chord_ok hx₁ hx₂ hy₁ hy₂ hx hgcd
        exact ⟨_, hadd, ⟨hline.x_lt, hline.y_lt⟩, chord_onCurve hline hcurve₁ hcurve₂ hgcd hslope⟩

theorem ecNeg_isPoint (h : IsPoint p a b r) : IsPoint p a b (ecNeg p r) := by
  refine ⟨ecNeg_reduced h.1, ?_⟩
  cases r with
  | inf => trivial
  | affine x y =>
    obtain ⟨⟨hx, -⟩, hcurve⟩ := h
    have hneg : ((imod ((p : Int) - y) p : Nat) : ZMod p) = -y := by
      have := (ZMod.intCast_eq_intCast_iff ..).2 (imod_modEq ((p : Int) - y) (Nat.zero_lt_of_lt hx))
      push_cast at this
      simpa using this
    rw [ecNeg, onCurve_iff, hneg, neg_mul_neg]
    exact onCurve_iff.1 hcurve

theorem doubleAndAdd_isPoint (hp : p.Prime) (h₁ : IsPoint p a b p₁) (bit : Bool) (h : IsPoint p a b r) :
    ∃ q, doubleAndAdd p a p₁ bit r = .ok q ∧ IsPoint p a b q := by
  obtain ⟨d, hd, hpoint⟩ := ecAdd_isPoint hp h h
  rw [doubleAndAdd, hd]
  cases bit with
  | false => exact ⟨d, rfl, hpoint⟩
  | true => exact ecAdd_isPoint hp hpoint h₁

theorem ecMulLoop_isPoint (hp : p.Prime) (h₁ : IsPoint p a b p₁) (k i : Nat) (h : IsPoint p a b r) :
    ∃ q, ecMulLoop p a p₁ k i r = .ok q ∧ IsPoint p a b q := by
  induction i generalizing r with
  | zero => exact ⟨r, rfl, h⟩
  | succ i ih =>
    obtain ⟨d, hd, hpoint⟩ := doubleAndAdd_isPoint hp h₁ (k.testBit i) h
    rw [ecMulLoop_succ, hd]
    exact ih hpoint

/-- Multiplication of a point of the curve never traps and stays on the curve. -/
theorem ecMul_isPoint (hp : p.Prime) (h₁ : IsPoint p a b p₁) (k : Nat) (neg : Bool) :
    ∃ r, ecMul p a p₁ k neg = .ok r ∧ IsPoint p a b r := by
  obtain ⟨r, hr, hpoint⟩ := ecMulLoop_isPoint hp h₁ k (bitlen k) isPoint_inf
  rw [ecMul, hr]
  cases neg with
  | false => exact ⟨r, rfl, hpoint⟩
  | true => exact ⟨ecNeg p r, rfl, ecNeg_isPoint hpoint⟩

end group

/-- Settles O38: over a prime every slope exists but that of opposite points, and the line's third point is on the
curve; the loop and the negation keep to points of the curve. -/
theorem curveIsClosed : Obligations.CurveIsClosed := fun _ _ _ _ _ k neg hp _ h₁ h₂ hcurve₁ hcurve₂ =>
  ⟨ecAdd_isPoint hp ⟨h₁, hcurve₁⟩ ⟨h₂, hcurve₂⟩, ecMul_isPoint hp ⟨h₁, hcurve₁⟩ k neg⟩

end Sys2Proof.Machine
end

section
/-! PROOFS. The statements of 43_meongcipher.md: decryption and encryption invert each other, the key schedule element
by element, and what the three commands of the cipher unit write, read and raise. -/

namespace Sys2Proof.Machine

variable {w nreg ncmd : Nat}

/-! Each round undoes the other, and so does each block function (R268, R269, R273). -/

section inverses

variable (t : CipherTables) (s k : Block)

theorem subBytes_symm_right (f : Equiv.Perm Byte) : subBytes f (subBytes f.symm s) = s := subBytes_symm f.symm s

theorem bytePermute_symm_right (p : Equiv.Perm (Fin 16)) : bytePermute (bytePermute s p.symm) p = s :=
  bytePermute_symm p.symm s

theorem bitPermute_symm_right (p : Equiv.Perm (Fin 128)) : bitPermute (bitPermute s p.symm) p = s :=
  bitPermute_symm p.symm s

theorem decRound_encRound : decRound t (encRound t s k) k = s := by
  simp only [decRound, encRound, loHalf_join, hiHalf_join, xorHalf_self, join_halves, bytePermute_symm, subBytes_symm]

theorem encRound_decRound : encRound t (decRound t s k) k = s := by
  simp only [decRound, encRound, subBytes_symm_right, bytePermute_symm_right, loHalf_join, hiHalf_join, xorHalf_self,
    join_halves]

end inverses

/-- Steps undone one by one, the last first, give back where they began. -/
theorem foldl_reverse_foldl {α β : Type} {f g : α → β → α} (h : ∀ a b, g (f a b) b = a) (l : List β) (a : α) :
    l.reverse.foldl g (l.foldl f a) = a := by
  induction l generalizing a with
  | nil => rfl
  | cons b l ih => rw [List.foldl_cons, List.reverse_cons, List.foldl_append, ih, List.foldl_cons, h, List.foldl_nil]

theorem meongDecrypt_meongEncrypt (t : CipherTables) (b : Block) (rk : Vector Block 10) :
    meongDecrypt t (meongEncrypt t b rk) rk = b := by
  rw [meongDecrypt, meongEncrypt, bitPermute_symm, foldl_reverse_foldl (decRound_encRound t), bitPermute_symm]

theorem meongEncrypt_meongDecrypt (t : CipherTables) (c : Block) (rk : Vector Block 10) :
    meongEncrypt t (meongDecrypt t c rk) rk = c := by
  have hrounds := foldl_reverse_foldl (encRound_decRound t) rk.toList.reverse (bitPermute c t.perm1.symm)
  rw [List.reverse_reverse] at hrounds
  rw [meongEncrypt, meongDecrypt, bitPermute_symm_right, hrounds, bitPermute_symm_right]

/-- Settles O42: each round's inverse undoes it, the last round first, between the two bit permutations. -/
theorem cipherRoundTrip : Obligations.CipherRoundTrip := meongDecrypt_meongEncrypt

/-! The key schedule, element by element (R262). -/

theorem getElem_nextKey (t : CipherTables) (k : Block) (i : Fin 16) :
    (nextKey t k)[i] =
      BitVec.ofNat 8 ((∑ j : Fin 16, (t.ksMul i j).toNat * k[j].toNat) % 256) ^^^ t.ksAdd i := by
  have hrow : mulRow t k i = BitVec.ofNat 8 ((∑ j : Fin 16, (t.ksMul i j).toNat * k[j].toNat) % 256) := by
    rw [mulRow, List.sum_ofFn]
    exact BitVec.eq_of_toNat_eq (Nat.mod_mod ..).symm
  rw [← hrow, nextKey, Fin.getElem_fin, Vector.getElem_ofFn]

theorem getElem_keySchedule_zero (t : CipherTables) (k0 : Block) : (keySchedule t k0)[0] = nextKey t k0 := by
  simp only [keySchedule, Vector.getElem_ofFn]
  rfl

theorem getElem_keySchedule_succ (t : CipherTables) (k0 : Block) (r : Fin 9) :
    (keySchedule t k0)[r.val + 1] = nextKey t (keySchedule t k0)[r.val] := by
  simp only [keySchedule, Vector.getElem_ofFn]
  rfl

theorem getElem_blockOf (v : Word w) (i : Fin 16) : (blockOf v)[i] = v.extractLsb' (8 * i.val) 8 := by
  simp [blockOf]

/-- A register's block is decided by its low 128 bits (R261). -/
theorem blockOf_eq_of_mod {u v : Word w} (hw : 128 ≤ w) (h : u.toNat % 2 ^ 128 = v.toNat % 2 ^ 128) :
    blockOf u = blockOf v := by
  rw [← wordOfBlock_blockOf u hw, ← wordOfBlock_blockOf v hw] at h
  rw [← blockOf_wordOfBlock (blockOf u) hw, BitVec.eq_of_toNat_eq h, blockOf_wordOfBlock _ hw]

/-! Encryption, written out on the tables (R264 to R268). -/

theorem bitOfBytes_eq_blockBit (s : Block) (j : Fin 128) : bitOfBytes s j = blockBit s j := by
  simp [bitOfBytes, blockBit, BitVec.getMsbD_eq_getLsbD, show j.val % 8 < 8 by omega]

theorem bitOfRegister_eq_blockBit (v : Word w) (j : Fin 128) : bitOfRegister v j = blockBit (blockOf v) j := by
  simp [← bitOfBytes_eq_blockBit, bitOfRegister, bitOfBytes, blockOf, show 7 - j.val % 8 < 8 by omega]

theorem blockBit_bitPermute (s : Block) (p : Equiv.Perm (Fin 128)) (j : Fin 128) :
    blockBit (bitPermute s p) j = blockBit s (p j) :=
  blockBit_blockOfBits _ j

theorem getElem_xorHalf (a b : Half) (i : Fin 8) : (xorHalf a b)[i] = a[i] ^^^ b[i] := by simp [xorHalf]

theorem getElem_joinHalves_lo (a b : Half) (i : Fin 8) : (joinHalves a b)[i.val] = a[i] := by simp [joinHalves]

theorem getElem_joinHalves_hi (a b : Half) (i : Fin 8) : (joinHalves a b)[i.val + 8] = b[i] := by simp [joinHalves]

theorem roundTakes_encRound (t : CipherTables) (s k : Block) : RoundTakes t k s (encRound t s k) := by
  refine ⟨loHalf (bytePermute (subBytes t.sbox s) t.perm3), hiHalf (bytePermute (subBytes t.sbox s) t.perm3), _, _,
    fun i => ⟨?_, ?_, getElem_xorHalf .., getElem_xorHalf .., ?_, ?_⟩⟩
  · simp [loHalf, bytePermute, subBytes]
  · simp [hiHalf, bytePermute, subBytes]
  · rw [encRound, getElem_joinHalves_lo]
  · rw [encRound, getElem_joinHalves_hi]

/-- The block after the first `r` rounds of the encryption of `b` (R268). -/
def blockAfter (t : CipherTables) (rk : Vector Block 10) (b : Block) (r : Nat) : Block :=
  (rk.toList.take r).foldl (encRound t) (bitPermute b t.perm2)

theorem blockAfter_succ (t : CipherTables) (rk : Vector Block 10) (b : Block) (r : Fin 10) :
    blockAfter t rk b (r.val + 1) = encRound t (blockAfter t rk b r.val) rk[r] := by
  rw [blockAfter, List.take_succ_eq_append_getElem (by simp), List.foldl_append]
  rfl

theorem meongEncrypt_eq_bitPermute_blockAfter (t : CipherTables) (rk : Vector Block 10) (b : Block) :
    meongEncrypt t b rk = bitPermute (blockAfter t rk b 10) t.perm1 := by
  rw [blockAfter, List.take_of_length_le (by simp)]
  rfl

/-- Where the block function takes one register's block to another's, the steps of R268 do. -/
theorem encryptsTo_of_meongEncrypt {t : CipherTables} {rk : Vector Block 10} {x y : Word w}
    (h : meongEncrypt t (blockOf x) rk = blockOf y) : EncryptsTo t rk x y := by
  refine ⟨fun r => blockAfter t rk (blockOf x) r.val, fun j => ?_, fun r => ?_, fun j => ?_⟩
  · rw [bitOfBytes_eq_blockBit, bitOfRegister_eq_blockBit]
    exact blockBit_bitPermute ..
  · change RoundTakes t rk[r] (blockAfter t rk (blockOf x) r.val) (blockAfter t rk (blockOf x) (r.val + 1))
    rw [blockAfter_succ]
    exact roundTakes_encRound ..
  · rw [bitOfRegister_eq_blockBit, ← h, meongEncrypt_eq_bitPermute_blockAfter, blockBit_bitPermute,
      bitOfBytes_eq_blockBit]
    rfl

/-! The three commands (R270 to R272). -/

theorem checkKeyLength_ok {n : Nat} (h : n = 16) : checkKeyLength n = .ok () := if_neg (not_not.2 h)

theorem checkKeyLength_error {n : Nat} (h : n ≠ 16) : checkKeyLength n = .error .keyLength := if_pos h

theorem checkKey_ok {s : State.Of w nreg ncmd} (h : s.key.keyv = true) : checkKey s = .ok () := if_pos h

theorem checkKey_error {s : State.Of w nreg ncmd} (h : s.key.keyv = false) : checkKey s = .error .noKey :=
  if_neg (by simp [h])

section commands

variable {rd ra rb : Reg} {s t : State} {i : Instr} {b : Block}

theorem exec_mkey (h : s.val rb = 16) : exec (.mkey ra rb) s =
    .next (advance { s with key := { keyv := true, rk := keySchedule Config.cipher (blockOf (s.reg ra)) } }) := by
  rw [exec, execMkey, execMkeyOf, checkKeyLength_ok h]
  rfl

theorem exec_mkey_of_badLength (h : s.val rb ≠ 16) : exec (.mkey ra rb) s = finish s (.error .keyLength) := by
  rw [exec, execMkey, execMkeyOf, checkKeyLength_error h]
  rfl

theorem key_of_mkey (h : exec (.mkey ra rb) s = .next t) : t.key =
    if s.val rb = 16 then { keyv := true, rk := keySchedule Config.cipher (blockOf (s.reg ra)) } else s.key := by
  split_ifs with hlen
  · rw [exec_mkey hlen] at h
    cases h
    rfl
  · rw [exec_mkey_of_badLength hlen] at h
    cases h
    rfl

/-- The command commits the block `b` to `rd`. -/
def WritesBlock (i : Instr) (rd : Reg) (b : Block) (s : State) : Prop :=
  exec i s = .next (advance (s.setReg rd (wordOfBlock b)))

theorem menc_writesBlock (h : s.key.keyv = true) :
    WritesBlock (.menc rd ra) rd (meongEncrypt Config.cipher (blockOf (s.reg ra)) s.key.rk) s := by
  rw [WritesBlock, exec, execMenc, execMencOf, checkKey_ok h]
  rfl

theorem mdec_writesBlock (h : s.key.keyv = true) :
    WritesBlock (.mdec rd ra) rd (meongDecrypt Config.cipher (blockOf (s.reg ra)) s.key.rk) s := by
  rw [WritesBlock, exec, execMdec, execMdecOf, checkKey_ok h]
  rfl

/-- What a register holds that a command has written a block to (R261). -/
theorem WritesBlock.next (h : WritesBlock i rd b s) : ∃ t, exec i s = .next t ∧ WritesReg rd (t.reg rd) s t ∧
    t.val rd < 2 ^ 128 ∧ blockOf (t.reg rd) = b := by
  have hwrites := writesReg_setReg s rd (wordOfBlock b)
  refine ⟨_, h, hwrites.self, ?_, ?_⟩
  · rw [State.Of.val, hwrites.result]
    exact wordOfBlock_lt b (by decide)
  · rw [hwrites.result, blockOf_wordOfBlock b (by decide)]

theorem WritesBlock.reg_eq (h : WritesBlock i rd b s) (ht : exec i s = .next t) : t.reg rd = wordOfBlock b := by
  rw [h] at ht
  cases ht
  exact reg_setReg_same ..

theorem raises_noKey {rest : Unit → Except ErrorCode State} (h : s.key.keyv = false)
    (hexec : exec i s = finish s (checkKey s >>= rest)) : Raises .noKey i s := by
  rw [checkKey_error h] at hexec
  exact raises_of_error hexec

end commands

/-- Settles O40: the length decides, and the subkeys are the schedule's, each the next of the one before it. -/
theorem mkeyLoadsSchedule : Obligations.MkeyLoadsSchedule := by
  intro ra rb s
  refine ⟨fun h => ⟨_, exec_mkey h, rfl, fun i => ?_, fun r i => ?_,
    advance_commits (readyToCommit_units ..).toSameHostSide rfl rfl, fun _ => rfl, rfl, rfl⟩,
    fun h => raises_of_error (exec_mkey_of_badLength h)⟩
  · simp only [← getElem_blockOf]
    exact (congrArg (·[i]) (getElem_keySchedule_zero ..)).trans (getElem_nextKey ..)
  · exact (congrArg (·[i]) (getElem_keySchedule_succ ..)).trans (getElem_nextKey ..)

/-- Settles O41: the destination's block is the block function's result, of which the source's block is the
decryption or the encryption; and no key fails the one check. -/
theorem mencMdecResult : Obligations.MencMdecResult := by
  intro rd ra s
  refine ⟨fun hkey => ⟨?_, ?_⟩, fun hkey => ⟨raises_noKey hkey rfl, raises_noKey hkey rfl⟩⟩
  · obtain ⟨t, hexec, hwrites, hlt, hblock⟩ := (menc_writesBlock (rd := rd) (ra := ra) hkey).next
    refine ⟨t, hexec, hwrites, hlt, encryptsTo_of_meongEncrypt hblock.symm, fun i => ?_⟩
    rw [← hblock, getElem_blockOf]
  · obtain ⟨t, hexec, hwrites, hlt, hblock⟩ := (mdec_writesBlock (rd := rd) (ra := ra) hkey).next
    refine ⟨t, hexec, hwrites, hlt, encryptsTo_of_meongEncrypt ?_, fun i => ?_⟩
    · rw [hblock, meongEncrypt_meongDecrypt]
    · rw [← hblock, getElem_blockOf]

/-- Settles O43: MENC leaves the key, so MDEC decrypts with the subkeys its block was encrypted with. -/
theorem mencThenMdec : Obligations.MencThenMdec := by
  intro rd ra rq s hkey
  obtain ⟨t, hmenc, hwrites, -, hblock⟩ := (menc_writesBlock (rd := rd) (ra := ra) hkey).next
  have hmdec := mdec_writesBlock (rd := rq) (ra := rd) (hwrites.key ▸ hkey)
  rw [hblock, hwrites.key, meongDecrypt_meongEncrypt] at hmdec
  obtain ⟨u, hu, -⟩ := hmdec.next
  refine ⟨t, u, hmenc, hu, ?_⟩
  rw [State.Of.val, hmdec.reg_eq hu]
  exact wordOfBlock_blockOf _ (by decide)

/-- Settles O44: the commands read the source's block only, which the low 128 bits decide. -/
theorem upperBitsIgnored : Obligations.UpperBitsIgnored := by
  intro rd ra rb s v t u hv
  have hblock : blockOf ((s.setReg ra v).reg ra) = blockOf (s.reg ra) := by
    rw [reg_setReg_same]
    exact blockOf_eq_of_mod (by decide) hv
  refine ⟨fun ht hu hkey => ?_, fun ht hu hkey => ?_, fun ht hu hne => ?_⟩
  · rw [(menc_writesBlock hkey).reg_eq ht, (menc_writesBlock (s := s.setReg ra v) hkey).reg_eq hu, hblock, setReg_key]
  · rw [(mdec_writesBlock hkey).reg_eq ht, (mdec_writesBlock (s := s.setReg ra v) hkey).reg_eq hu, hblock, setReg_key]
  · have hlen : (s.setReg ra v).val rb = s.val rb := congrArg BitVec.toNat (reg_setReg_of_ne s v hne)
    rw [key_of_mkey ht, key_of_mkey hu, hlen, hblock, setReg_key]

end Sys2Proof.Machine
end

section
/-! PROOFS. The statements of 60_exceptions.md: where the model stops (R322), and that a pending bit stays set (R307). -/

namespace Sys2Proof.Machine

variable {s t : State} {a : Access}

/-! The two stops of a step (R322; 93_implementation_defined.md I2, I10). -/

/-- Every command has an outcome: it commits or takes the trap, so it neither faults nor is refused (R303). -/
theorem exec_has_next (i : Instr) (s : State) : ∃ t, exec i s = .next t :=
  (commandCommitsOrTraps.1 i s).1.imp fun _ h => h.1

/-- A run is in progress whose next fetch is of a command word not written since reset (I2). -/
def FetchesUnwritten (s : State) : Prop :=
  s.busy = true ∧ s.cpc.toNat < 1024 ∧ readCmd s.mem s.cpc.toNat = none

theorem sequencerTurn_of_fetchesUnwritten (h : FetchesUnwritten s) :
    sequencerTurn exec s = .fault (.unwrittenCommand s.cpc) := by
  obtain ⟨hb, hc, hw⟩ := h
  simp [sequencerTurn, hb, Nat.not_le.2 hc, hw]

theorem sequencerTurn_has_next (h : ¬FetchesUnwritten s) : ∃ t, sequencerTurn exec s = .next t := by
  cases hb : s.busy with
  | false => exact ⟨_, sequencerTurn_of_idle hb⟩
  | true =>
    rcases Nat.lt_or_ge s.cpc.toNat 1024 with hc | hc
    · cases hw : readCmd s.mem s.cpc.toNat with
      | none => exact absurd ⟨hb, hc, hw⟩ h
      | some word =>
        cases hd : decode word with
        | error e => exact ⟨_, sequencerTurn_of_illegal hb hc hw hd⟩
        | ok i => exact sequencerTurn_run (execute := exec) hb hc hw hd ▸ exec_has_next i s
    · exact ⟨_, sequencerTurn_of_pcRange hb hc⟩

/-- An access the port defines names a control register only at the register's own address, with 4 bytes (R81, R90). -/
theorem controlAccess_iff {addr : HostAddr} {size : Nat} {r : ControlReg} :
    accessOk addr size = true ∧ target addr = .control r ↔ addr = r.addr ∧ size = 4 := by
  refine ⟨fun ⟨hok, htarget⟩ => ⟨target_eq_control_iff.1 htarget, ?_⟩, ?_⟩
  · simp only [accessOk, Bool.and_eq_true, beq_iff_eq] at hok
    exact hok.1
  · rintro ⟨rfl, rfl⟩
    exact ⟨accessOk_addr r, target_addr r⟩

/-- Duty H-12 is broken by a write of CTRL with START alone, to the idle machine after a failed run of which a register
of the report is unread. -/
theorem losesReport_iff : losesReport s a = true ↔
    (∃ v, a = .write 0x0008 4 v ∧ v.getLsbD 0 = true ∧ v.getLsbD 1 = false) ∧
      s.busy = false ∧ s.err = true ∧ (s.reportRead.code = false ∨ s.reportRead.pc = false) := by
  cases a with
  | read addr size => simp [losesReport]
  | write addr size v =>
    have hctrl := controlAccess_iff (addr := addr) (size := size) (r := .ctrl)
    simp only [ControlReg.addr] at hctrl
    simp only [losesReport, Bool.and_eq_true, beq_iff_eq, hctrl, Bool.not_eq_true', Bool.and_eq_false_iff,
      Access.write.injEq]
    constructor
    · rintro ⟨⟨⟨⟨⟨⟨haddr, hsize⟩, h₀⟩, h₁⟩, hb⟩, he⟩, hr⟩
      exact ⟨⟨v, ⟨haddr, hsize, rfl⟩, h₀, h₁⟩, hb, he, hr⟩
    · rintro ⟨⟨v, ⟨haddr, hsize, rfl⟩, h₀, h₁⟩, hb, he, hr⟩
      exact ⟨⟨⟨⟨⟨⟨haddr, hsize⟩, h₀⟩, h₁⟩, hb⟩, he⟩, hr⟩

theorem step_of_fetchesUnwritten (hseq : nextIsSequencer s) (h : FetchesUnwritten s) :
    step s = .fault (.unwrittenCommand s.cpc) :=
  (step_of_nextIsSequencer hseq).trans (sequencerTurn_of_fetchesUnwritten (s := takenTurn s) h)

/-- A host transaction that loses an unread error report has no step (I10). -/
theorem step_of_losesReport {rest : List Turn} (hagenda : s.agenda = .bus a :: rest)
    (h : losesReport (takenTurn s) a = true) : step s = .fault .reportLost :=
  (step_of_cons hagenda).trans (if_pos h)

/-- Every other step has a next state, by the turn at the head of the agenda. -/
theorem step_has_next (hfetch : nextIsSequencer s → ¬FetchesUnwritten s)
    (hkeeps : ∀ a rest, s.agenda = .bus a :: rest → losesReport (takenTurn s) a = false) : ∃ t, step s = .next t := by
  have hsequencer (hseq : nextIsSequencer s) : ∃ t, step s = .next t :=
    step_of_nextIsSequencer hseq ▸ sequencerTurn_has_next (s := takenTurn s) (hfetch hseq)
  cases hagenda : s.agenda with
  | nil => exact hsequencer (.inl hagenda)
  | cons turn rest =>
    cases turn with
    | sequencer => exact hsequencer (.inr ⟨rest, hagenda⟩)
    | bus a => exact ⟨_, (step_of_cons hagenda).trans (takeTurn_bus_of_keepsReport (hkeeps a rest hagenda))⟩
    | reset o => exact ⟨_, step_of_cons hagenda⟩

/-- The outcomes of a step: the two stops, each with its cause, and a next state. -/
theorem step_stops_or_next (s : State) :
    (nextIsSequencer s ∧ FetchesUnwritten s ∧ step s = .fault (.unwrittenCommand s.cpc)) ∨
    (∃ a rest, s.agenda = .bus a :: rest ∧ losesReport (takenTurn s) a = true ∧ step s = .fault .reportLost) ∨
    ∃ t, step s = .next t := by
  by_cases hfetch : nextIsSequencer s ∧ FetchesUnwritten s
  · obtain ⟨hseq, hunwritten⟩ := hfetch
    exact .inl ⟨hseq, hunwritten, step_of_fetchesUnwritten hseq hunwritten⟩
  · by_cases hloses : ∃ a rest, s.agenda = .bus a :: rest ∧ losesReport (takenTurn s) a = true
    · obtain ⟨a, rest, hagenda, ha⟩ := hloses
      exact .inr (.inl ⟨a, rest, hagenda, ha, step_of_losesReport hagenda ha⟩)
    · refine .inr (.inr (step_has_next (not_and.1 hfetch) fun a rest hagenda => ?_))
      exact Bool.eq_false_iff.2 fun ha => hloses ⟨a, rest, hagenda, ha⟩

/-- Settles O14: each of the two causes is a fault, and a step without one has a next state. -/
theorem stepStopsInTwoWays : Obligations.StepStopsInTwoWays := by
  intro s
  refine ⟨fun f => ⟨fun hf => ?_, ?_⟩, fun r hr => ?_⟩
  · rcases step_stops_or_next s with ⟨hseq, ⟨hb, hc, hw⟩, hstep⟩ | ⟨a, rest, hagenda, hloses, hstep⟩ | ⟨t, hstep⟩ <;>
      cases hstep.symm.trans hf
    · exact .inl ⟨hseq, hb, hc, hw, rfl⟩
    · obtain ⟨⟨v, rfl, h₀, h₁⟩, hb, he, hread⟩ := losesReport_iff.1 hloses
      exact .inr ⟨⟨v, rest, hagenda, h₀, h₁⟩, hb, he, hread, rfl⟩
  · rintro (⟨hseq, hb, hc, hw, rfl⟩ | ⟨⟨v, rest, hagenda, h₀, h₁⟩, hb, he, hread, rfl⟩)
    · exact step_of_fetchesUnwritten hseq ⟨hb, hc, hw⟩
    · exact step_of_losesReport hagenda (losesReport_iff.2 ⟨⟨v, rfl, h₀, h₁⟩, hb, he, hread⟩)
  · rcases step_stops_or_next s with ⟨-, -, hstep⟩ | ⟨a, rest, -, -, hstep⟩ | ⟨t, hstep⟩ <;>
      cases hstep.symm.trans hr

/-! The pending bits (R307). -/

/-- No pending bit of `s` is lost in `t`. -/
structure KeepsPending (s t : State) : Prop where
  done : s.irqPend.done = true → t.irqPend.done = true
  err : s.irqPend.err = true → t.irqPend.err = true

theorem keepsPending_of_eq (h : t.irqPend = s.irqPend) : KeepsPending s t := by
  constructor <;> rw [h] <;> exact id

theorem Traps.keepsPending {e : ErrorCode} (h : Traps e s t) : KeepsPending s t :=
  ⟨h.pendDone.trans, fun _ => h.pendErr⟩

/-- The ends of a command only set pending bits: HALT sets DONE, a trap ERR, and another commit leaves both. -/
theorem exec_keepsPending {i : Instr} (h : exec i s = .next t) : KeepsPending s t := by
  rcases exec_next h with ⟨-, rfl⟩ | hcommit | ⟨e, -, htrap⟩
  · exact ⟨fun _ => rfl, id⟩
  · exact keepsPending_of_eq hcommit.irqPend
  · exact htrap.keepsPending

theorem sequencerTurn_keepsPending (h : sequencerTurn exec s = .next t) : KeepsPending s t := by
  rcases sequencerTurn_next h with ⟨-, rfl⟩ | ⟨-, -, rfl⟩ | ⟨w, e, -, -, -, rfl⟩ | ⟨w, i, -, -, -, -, hexec⟩
  · exact keepsPending_of_eq rfl
  · exact (trap_traps ..).keepsPending
  · exact (trap_traps ..).keepsPending
  · exact exec_keepsPending hexec

theorem targetRead_irqPend (s : State) (g : Target 16) : (targetRead s g).irqPend = s.irqPend := by
  rcases targetRead_cases s g with ⟨r, -, hr⟩ | ⟨v, hr⟩ | hr | ⟨-, hr⟩ <;> rw [hr] <;> rfl

theorem busRead_irqPend (addr : HostAddr) (size : Nat) (s : State) : (busRead addr size s).irqPend = s.irqPend := by
  unfold busRead
  split
  · exact targetRead_irqPend s _
  · rfl

theorem start_irqPend (s : State) : (start s).irqPend = s.irqPend := by
  unfold start
  split <;> rfl

theorem abort_keepsPending (s : State) : KeepsPending s (abort s) := by
  cases hb : s.busy with
  | true => exact (abort_traps hb).keepsPending
  | false => exact keepsPending_of_eq (by rw [abort_of_idle hb])

/-- START clears no pending bit, and ABORT sets one (R307, R310). -/
theorem writeCtrl_keepsPending (v : CmdWord) (s : State) : KeepsPending s (writeCtrl v s) := by
  have habort := abort_keepsPending s
  rw [writeCtrl_eq]
  split
  · exact ⟨habort.done, habort.err⟩
  · exact habort
  · exact keepsPending_of_eq (start_irqPend s)
  · exact keepsPending_of_eq rfl

theorem whileIdle_keepsPending (h : t.irqPend = s.irqPend) : KeepsPending s (whileIdle s t) := by
  unfold whileIdle
  split
  · exact keepsPending_of_eq rfl
  · exact keepsPending_of_eq h

theorem targetWrite_keepsPending (v : CmdWord) (s : State) {g : Target 16} (h : g ≠ .control .irqPend) :
    KeepsPending s (targetWrite v s g) := by
  cases g with
  | control r =>
    cases r with
    | irqPend => exact absurd rfl h
    | ctrl => exact writeCtrl_keepsPending v s
    | cpc => exact whileIdle_keepsPending rfl
    | id | config | status | errcode | errpc | irqEn | retired => exact keepsPending_of_eq rfl
  | command k => exact whileIdle_keepsPending rfl
  | operand r k => exact whileIdle_keepsPending rfl
  | unmapped => exact keepsPending_of_eq rfl

/-- The one host access that can clear a pending bit is a write of IRQ_PEND. -/
theorem serve_keepsPending (s : State) (h : ∀ v, a ≠ .write 0x0020 4 v) : KeepsPending s (serve s a) := by
  cases a with
  | read addr size => exact keepsPending_of_eq (busRead_irqPend addr size s)
  | write addr size v =>
    show KeepsPending s (busWrite addr size v s)
    unfold busWrite
    split
    next hok =>
      refine targetWrite_keepsPending v s fun htarget => ?_
      obtain ⟨rfl, rfl⟩ := controlAccess_iff.1 ⟨hok, htarget⟩
      exact h v rfl
    next => exact keepsPending_of_eq rfl

/-- A write of IRQ_PEND keeps the bits where it has a 0 (R41). -/
theorem serve_write_irqPend (s : State) (v : CmdWord) :
    (serve s (.write 0x0020 4 v)).irqPend = s.irqPend.w1c v :=
  congrArg State.Of.irqPend (serve_write_control .irqPend s v)

/-- A step that is no reset loses no pending bit, or is a write of IRQ_PEND. -/
theorem step_keepsPending_or_w1c (h : step s = .next t) (hreset : ¬nextIsReset s) :
    KeepsPending s t ∨ ∃ v rest, s.agenda = .bus (.write 0x0020 4 v) :: rest ∧ t.irqPend = s.irqPend.w1c v := by
  rcases step_next h with ⟨-, hturn⟩ | ⟨a, rest, hagenda, -, rfl⟩ | ⟨o, rest, hagenda, -⟩
  · obtain ⟨hdone, herr⟩ := sequencerTurn_keepsPending hturn
    exact .inl ⟨hdone, herr⟩
  · by_cases hw : ∃ v, a = .write 0x0020 4 v
    · obtain ⟨v, rfl⟩ := hw
      exact .inr ⟨v, rest, hagenda, serve_write_irqPend (takenTurn s) v⟩
    · obtain ⟨hdone, herr⟩ := serve_keepsPending (takenTurn s) (not_exists.1 hw)
      exact .inl ⟨hdone, herr⟩
  · exact absurd ⟨o, rest, hagenda⟩ hreset

/-- Settles O53: only a write of IRQ_PEND can clear, and it keeps each bit where it has a 0. -/
theorem pendingBitsStick : Obligations.PendingBitsStick := by
  intro s t h hreset
  rcases step_keepsPending_or_w1c h hreset with ⟨hdone, herr⟩ | ⟨v, rest, hagenda, hpend⟩
  · exact ⟨fun _ => hdone, fun _ => herr⟩
  · rw [hpend]
    refine ⟨fun hv hd => ?_, fun hv he => ?_⟩
    · simpa [EventBits.w1c, hd] using hv v rest hagenda
    · simpa [EventBits.w1c, he] using hv v rest hagenda

end Sys2Proof.Machine
end

section
/-! PROOFS. The statements of 70_reset_and_hazards.md: what a reset leaves (R340), that nothing else unloads a key or a
curve (R341), and the bound on a run's length (R357). -/

namespace Sys2Proof.Machine

variable {s t : State}

/-! What a reset leaves (R60, R340). -/

theorem step_of_reset {o : Option Access} {rest : List Turn} (hagenda : s.agenda = .reset o :: rest) :
    step s = .next (serveReset (takenTurn s) o) :=
  step_of_cons hagenda

/-- A transaction that overlaps a reset touches only what a host read returns, and the counter it draws from. -/
theorem serveReset_eq_resetEvent_with (s : State) (o : Option Access) :
    ∃ v n, serveReset s o = { resetEvent s with readData := v, draws := n } := by
  unfold serveReset
  split <;> exact ⟨_, _, rfl⟩

/-- STATUS after a reset is STATUS after power-on. -/
theorem statusWord_resetEvent (s : State) : statusWord (resetEvent s) = 0 := by
  obtain ⟨hstatus, -⟩ := resetValues
  exact hstatus

theorem eventBits_word_clear : EventBits.clear.word = 0 := rfl

theorem reg_resetEvent {w nreg ncmd : Nat} (s : State.Of w nreg ncmd) (r : Reg nreg) :
    (resetEvent s).reg r = Config.freeWord w (s.draws + r.val) := by
  simp [State.Of.reg, resetEvent]

/-- Settles O55: no field the statement names is touched by an overlapping transaction, so each is the reset event's. -/
theorem resetFromAnyState : Obligations.ResetFromAnyState := by
  intro s o rest hagenda
  obtain ⟨v, n, hreset⟩ := serveReset_eq_resetEvent_with (takenTurn s) o
  rw [step_of_reset hagenda, hreset]
  exact ⟨_, rfl, statusWord_resetEvent (takenTurn s), rfl, rfl, rfl, rfl, rfl, rfl, eventBits_word_clear,
    eventBits_word_clear, rfl, rfl, rfl, rfl, fun _ => rfl, congrArg List.tail hagenda, reg_resetEvent (takenTurn s)⟩

/-! A loaded key and a selected curve stay loaded (R341). -/

/-- Nothing loaded in `s` is unloaded in `t`. -/
structure KeepsLoaded (s t : State) : Prop where
  key : s.key.keyv = true → t.key.keyv = true
  curve : s.curve.id ≠ .none → t.curve.id ≠ .none

theorem SameUnits.keepsLoaded (h : SameUnits s t) : KeepsLoaded s t := by
  constructor
  · exact (congrArg KeyState.keyv h.key).trans
  · exact (congrArg CurveContext.id h.curve).trans_ne

theorem presetOf_ne_none (presets : CurvePresets) (imm : BitVec 16) : (presetOf presets imm).1 ≠ .none := by
  unfold presetOf
  split <;> exact CurveId.noConfusion

/-- MKEY only replaces a key; CSEL and CLD only replace a context. -/
theorem exec_keepsLoaded {i : Instr} (h : exec i s = .next t) : KeepsLoaded s t where
  key := by
    rcases (exec_unitsByOwner h).key with hsame | ⟨ra, rb, -, hloaded⟩
    · rw [hsame]
      exact id
    · rw [hloaded]
      exact fun _ => rfl
  curve := by
    rcases (exec_unitsByOwner h).curve with hsame | ⟨imm, -, hpreset⟩ | ⟨ra, rb, rm, -, -, -, -, hcustom⟩
    · rw [hsame]
      exact id
    · rw [hpreset]
      exact fun _ => presetOf_ne_none _ imm
    · rw [hcustom]
      exact fun _ => CurveId.noConfusion

theorem sequencerTurn_keepsLoaded (h : sequencerTurn exec s = .next t) : KeepsLoaded s t := by
  rcases sequencerTurn_next h with ⟨-, rfl⟩ | ⟨-, -, rfl⟩ | ⟨w, e, -, -, -, rfl⟩ | ⟨w, i, -, -, -, -, hexec⟩
  · exact ⟨id, id⟩
  · exact (trap_traps ..).units.keepsLoaded
  · exact (trap_traps ..).units.keepsLoaded
  · exact exec_keepsLoaded hexec

/-- Settles O11, by the kinds of a step: a turn of the sequencer, or a host transaction, which writes no unit. -/
theorem onlyResetUnloads : Obligations.OnlyResetUnloads := by
  intro s t h hreset
  have hkept : KeepsLoaded (takenTurn s) t := by
    rcases step_next h with ⟨-, hturn⟩ | ⟨a, rest, -, -, rfl⟩ | ⟨o, rest, hagenda, -⟩
    · exact sequencerTurn_keepsLoaded hturn
    · exact (serve_runControlled (takenTurn s) a).sameUnits.keepsLoaded
    · exact absurd ⟨o, rest, hagenda⟩ hreset
  exact ⟨hkept.key, hkept.curve⟩

/-! The length of a run (R357). -/

/-- A run is in progress that no other agent's turn interrupts and that meets no unwritten word. -/
structure RunsAlone (s : State) : Prop where
  busy : s.busy = true
  agenda : s.agenda = []
  written : WordsWrittenFrom s s.cpc.toNat

theorem RunsAlone.step_eq (h : RunsAlone s) : step s = sequencerTurn exec s := by
  rw [step_of_nextIsSequencer (.inl h.agenda), takenTurn_of_nil h.agenda]

theorem RunsAlone.not_fetchesUnwritten (h : RunsAlone s) : ¬FetchesUnwritten s := by
  rintro ⟨-, hc, hnone⟩
  obtain ⟨word, hword⟩ := h.written _ le_rfl hc
  exact absurd (hnone.symm.trans hword) (by simp)

/-- A command of a run ends it, by HALT or by a trap, or commits. -/
theorem exec_ends_or_commits {i : Instr} (h : exec i s = .next t) : t.busy = false ∨ Commits s t := by
  rcases exec_next h with ⟨-, rfl⟩ | hcommit | ⟨e, -, htrap⟩
  · exact .inl rfl
  · exact .inr hcommit
  · exact .inl htrap.busy

/-- A turn of the sequencer in a run ends it, or commits a command the pointer found below NCMD. -/
theorem sequencerTurn_ends_or_commits (hb : s.busy = true) (h : sequencerTurn exec s = .next t) :
    t.busy = false ∨ (s.cpc.toNat < 1024 ∧ Commits s t) := by
  rcases sequencerTurn_next h with ⟨hidle, -⟩ | ⟨-, -, rfl⟩ | ⟨w, e, -, -, -, rfl⟩ | ⟨w, i, -, hc, -, -, hexec⟩
  · exact absurd (hb.symm.trans hidle) (by decide)
  · exact .inl rfl
  · exact .inl rfl
  · exact (exec_ends_or_commits hexec).imp_right fun hcommit => ⟨hc, hcommit⟩

/-- Below NCMD the pointer's advance does not wrap. -/
theorem Commits.toNat_cpc (h : Commits s t) (hc : s.cpc.toNat < 1024) : t.cpc.toNat = s.cpc.toNat + 1 := by
  rw [h.cpc, BitVec.toNat_add_of_lt]
  · rfl
  · show s.cpc.toNat + 1 < 2 ^ 16
    omega

theorem RunsAlone.of_commits (h : RunsAlone s) (hc : s.cpc.toNat < 1024) (hcommit : Commits s t) : RunsAlone t where
  busy := hcommit.busy.trans h.busy
  agenda := hcommit.agenda.trans h.agenda
  written := fun j hj hlt => by
    rw [readCmd_congr hcommit.mem]
    have hcpc := hcommit.toNat_cpc hc
    exact h.written j (by omega) hlt

/-- One step of a run ends it, or brings the pointer one nearer to NCMD with the run going on as before (R154). -/
theorem RunsAlone.step_ends_or_advances (h : RunsAlone s) : ∃ t, step s = .next t ∧
    (t.busy = false ∨ (s.cpc.toNat < 1024 ∧ t.cpc.toNat = s.cpc.toNat + 1 ∧ RunsAlone t)) := by
  rw [h.step_eq]
  obtain ⟨t, ht⟩ := sequencerTurn_has_next h.not_fetchesUnwritten
  refine ⟨t, ht, (sequencerTurn_ends_or_commits h.busy ht).imp_right ?_⟩
  rintro ⟨hc, hcommit⟩
  exact ⟨hc, hcommit.toNat_cpc hc, h.of_commits hc hcommit⟩

theorem run_succ_of_step {M : Host.Core} {s t : M.State} (n : Nat) (h : M.step s = .next t) :
    M.run (n + 1) s = M.run n t := by
  rw [Host.Core.run, h]

/-- By induction on the words left before NCMD: at most one step for each, and one for the fetch past the last. -/
theorem RunsAlone.ends {s : State} (h : RunsAlone s) :
    ∃ n t, n ≤ 1024 - s.cpc.toNat + 1 ∧ core.run n s = .next t ∧ t.busy = false := by
  obtain ⟨u, hstep, hend | ⟨hc, hcpc, hrun⟩⟩ := h.step_ends_or_advances
  · exact ⟨1, u, Nat.le_add_left .., run_succ_of_step (M := core) 0 hstep, hend⟩
  · obtain ⟨n, t, hn, hruns, ht⟩ := hrun.ends
    exact ⟨n + 1, t, by omega, (run_succ_of_step (M := core) n hstep).trans hruns, ht⟩
termination_by 1024 - s.cpc.toNat

/-- Settles O13: the premises are a run alone, which ends within the bound. -/
theorem runEndsWithinBound : Obligations.RunEndsWithinBound := fun _ hb hagenda hwritten =>
  RunsAlone.ends ⟨hb, hagenda, hwritten⟩

end Sys2Proof.Machine
end
